-- ==== Sys2Proof/Word.lean ====
section
/-! DEFINITION. The word widths of the block (00_scope R7, R9): every value the host port, a register or the ZUC unit
holds as bits. -/

namespace Sys2Proof

/-- One host access, one command word, one keystream word: 32 bits (R7). -/
abbrev Word := BitVec 32

/-- A general register, a scalar, a coordinate: 256 bits, unsigned (FIELD_BITS, R7, R32). -/
abbrev U256 := BitVec 256

/-- One LFSR cell: 31 bits (R7, R50). -/
abbrev LfsrCell := BitVec 31

/-- One byte of a key, an initialisation vector, an S-box or the data stream. -/
abbrev Byte := BitVec 8

end Sys2Proof
end

