-- ==== Sys2Proof/Config.lean ====
section
/-! DEFINITION. What the spec leaves open: the free values and the named parameters. Every one is opaque: nothing can
evaluate it, so whatever is proved holds for every value of it. -/

namespace Sys2Proof

/-- FREE VALUE (log 4). The 32-bit word the `n`-th busy read answers: a host read of a word of R or P, of ZOUT or of
DOUT while BUSY = 1 "returns an unspecified 32-bit value", "a draw under no law" (20_memory R84). -/
opaque Config.busyRead : Nat → Word

/-- OPEN PARAMETER (log 7). LAT_<mnemonic> of 00_scope R8 in clock cycles, positive and finite, by opcode: it "may depend
on the opcode, and it depends on nothing else" (70_reset R362). No step uses it: the machine models no time. -/
opaque Config.latency : BitVec 8 → ℕ+

/-- OPEN PARAMETER (log 7). CMD_ILLEGAL_LAT of 00_scope R8. No step uses it. -/
opaque Config.illegalLatency : ℕ+

/-- OPEN PARAMETER (log 7). WINDOW_BASE of 20_memory R70, the platform's choice. No step uses it: an access is given by
its offset in the window. -/
opaque Config.windowBase : Nat

/-- OPEN PARAMETER (log 7). IRQ_ROUTING of 60_exceptions R310: which input of the platform's interrupt controller the
IRQ output drives. No step uses it. -/
opaque Config.irqRouting : Nat

end Sys2Proof
end

