-- ==== Sys2Proof/Syntax.lean ====
section
/-! DEFINITION. The fourteen commands of the S2Z command set, version 1 (30_encoding R105, R118), one constructor for each
row of spec/opcode_table.json. -/

namespace Sys2Proof

/-- The number of a general register r0..r15; all 16 are legal (R103). -/
abbrev GenReg := Fin 16

/-- The number of a point register p0..p3 (R103). -/
abbrev PointReg := Fin 4

/-- A command, operands in the order of R118. -/
inductive Instr where
  | nop
  | fadd (rd rs1 rs2 : GenReg)
  | fsub (rd rs1 rs2 : GenReg)
  | fmul (rd rs1 rs2 : GenReg)
  | fsqr (rd rs : GenReg)
  | finv (rd rs : GenReg)
  | padd (pd ps1 ps2 : PointReg)
  | pdbl (pd ps : PointReg)
  | pmul (pd : PointReg) (rk : GenReg) (ps : PointReg)
  | pchk (ps : PointReg)
  | pldg (pd : PointReg)
  | zinit
  | zgen
  | zxor (n : BitVec 3)
  deriving DecidableEq, Repr

end Sys2Proof
end

