-- ==== Sys2Proof/WellFormed.lean ====
section
/-! DEFINITION. Which commands are legal as syntax. A register operand is legal by its type; the one check left is the
byte count of ZXOR (30_encoding R104). -/

namespace Sys2Proof

/-- The byte counts ZXOR takes: "n ∈ {1, 2, 3, 4}, and n = 0 or n ≥ 5 makes the word illegal" (R104). -/
def byteCountLegal (n : BitVec 3) : Bool :=
  1 ≤ n.toNat && n.toNat ≤ 4

/-- A command that some legal word encodes (R106). -/
def Instr.wellFormed : Instr → Bool
  | .zxor n => byteCountLegal n
  | .nop | .fadd .. | .fsub .. | .fmul .. | .fsqr .. | .finv .. => true
  | .padd .. | .pdbl .. | .pmul .. | .pchk .. | .pldg .. => true
  | .zinit | .zgen => true

end Sys2Proof
end

