-- ==== Sys2Proof/Decode.lean ====
section
/-! DEFINITION. Decoding a 32-bit command word (30_encoding R100-R109) and encoding a command. A command is delivered whole,
as the word written to CMD; there is no instruction stream and no byte order to settle (R100, R89). -/

namespace Sys2Proof

/-- Why a word is no command. The block treats all three alike: it completes with E_ILLEGAL (R106, R107). -/
inductive Reject where
  /-- OPC is none of the fourteen opcodes (R106 clause 1, R108). -/
  | reservedOpcode (opc : BitVec 8)
  /-- A must-be-zero bit of the named command's format is set (R106 clause 2). -/
  | nonZeroBits (mnemonic : String)
  /-- ZXOR with a count of 0, 5, 6 or 7 (R106 clause 3). -/
  | badByteCount (n : BitVec 3)
  deriving DecidableEq, Repr

/-- OPC, bits 31:24 (R101). -/
def opcodeOf (w : Word) : BitVec 8 := w.extractLsb' 24 8

/-- A general-register field at bits lo+3:lo (R103). -/
def genField (lo : Nat) (w : Word) : GenReg := (w.extractLsb' lo 4).toFin

/-- A point-register field: bits lo+1:lo of the 4-bit field at lo (R103). -/
def pointField (lo : Nat) (w : Word) : PointReg := (w.extractLsb' lo 2).toFin

/-- N, bits 2:0 (R101, R104). -/
def countField (w : Word) : BitVec 3 := w.extractLsb' 0 3

/-- One row of the opcode map (R105): a word has the row's shape when (w and mask) = match; `operands` reads the fields
of the row's pattern. -/
structure OpRow where
  mnemonic : String
  opc : BitVec 8
  mask : Word
  pat : Word
  operands : Word → Instr

/-- The complete opcode map, in R105's order. -/
def opcodeMap : List OpRow := [
  ⟨"NOP",   0x00, 0xFFFFFFFF, 0x00000000, fun _ => .nop⟩,
  ⟨"FADD",  0x10, 0xFF000FFF, 0x10000000, fun w => .fadd (genField 20 w) (genField 16 w) (genField 12 w)⟩,
  ⟨"FSUB",  0x11, 0xFF000FFF, 0x11000000, fun w => .fsub (genField 20 w) (genField 16 w) (genField 12 w)⟩,
  ⟨"FMUL",  0x12, 0xFF000FFF, 0x12000000, fun w => .fmul (genField 20 w) (genField 16 w) (genField 12 w)⟩,
  ⟨"FSQR",  0x13, 0xFF00FFFF, 0x13000000, fun w => .fsqr (genField 20 w) (genField 16 w)⟩,
  ⟨"FINV",  0x14, 0xFF00FFFF, 0x14000000, fun w => .finv (genField 20 w) (genField 16 w)⟩,
  ⟨"PADD",  0x20, 0xFFCCCFFF, 0x20000000, fun w => .padd (pointField 20 w) (pointField 16 w) (pointField 12 w)⟩,
  ⟨"PDBL",  0x21, 0xFFCCFFFF, 0x21000000, fun w => .pdbl (pointField 20 w) (pointField 16 w)⟩,
  ⟨"PMUL",  0x22, 0xFFC0CFFF, 0x22000000, fun w => .pmul (pointField 20 w) (genField 16 w) (pointField 12 w)⟩,
  ⟨"PCHK",  0x23, 0xFFFCFFFF, 0x23000000, fun w => .pchk (pointField 16 w)⟩,
  ⟨"PLDG",  0x24, 0xFFCFFFFF, 0x24000000, fun w => .pldg (pointField 20 w)⟩,
  ⟨"ZINIT", 0x30, 0xFFFFFFFF, 0x30000000, fun _ => .zinit⟩,
  ⟨"ZGEN",  0x31, 0xFFFFFFFF, 0x31000000, fun _ => .zgen⟩,
  ⟨"ZXOR",  0x32, 0xFFFFFFF8, 0x32000000, fun w => .zxor (countField w)⟩]

/-- The row of an opcode, if there is one. -/
def rowOf (opc : BitVec 8) : Option OpRow := opcodeMap.find? fun row => row.opc == opc

/-- Legality of a word as R106 writes it. -/
def legalWord (w : Word) : Bool :=
  opcodeMap.any fun row =>
    row.opc == opcodeOf w && (w &&& row.mask) == row.pat && (row.opc != 0x32 || byteCountLegal (countField w))

/-- Decoding: a total function from words to the fourteen commands or a rejection by name (R106, R109). -/
def decode (w : Word) : Except Reject Instr :=
  match rowOf (opcodeOf w) with
  | none => .error (.reservedOpcode (opcodeOf w))
  | some row =>
    if w &&& row.mask = row.pat then
      if (row.operands w).wellFormed then .ok (row.operands w) else .error (.badByteCount (countField w))
    else .error (.nonZeroBits row.mnemonic)

/-- Decoding from a bit string of the opcode table: a command is one 32-bit word, every bit above `nbits` being 0. -/
def decodeTableWord (nbits w : Nat) : Option Instr :=
  (decode (BitVec.ofNat 32 (w % 2 ^ nbits))).toOption

/-- A word from its fields (R101): OPC, A, B, C, nine zero bits, N. -/
def wordOf (opc : BitVec 8) (a b c : BitVec 4) (n : BitVec 3) : Word :=
  opc ++ a ++ b ++ c ++ (0 : BitVec 9) ++ n

/-- A general register's 4-bit field. -/
def genBits (r : GenReg) : BitVec 4 := BitVec.ofFin r

/-- A point register's 4-bit field, bits 3:2 zero. -/
def pointBits (p : PointReg) : BitVec 4 := (0 : BitVec 2) ++ (BitVec.ofFin p : BitVec 2)

/-- The word of a command, by the formats of R102. -/
def encode : Instr → Word
  | .nop => wordOf 0x00 0 0 0 0
  | .fadd rd rs1 rs2 => wordOf 0x10 (genBits rd) (genBits rs1) (genBits rs2) 0
  | .fsub rd rs1 rs2 => wordOf 0x11 (genBits rd) (genBits rs1) (genBits rs2) 0
  | .fmul rd rs1 rs2 => wordOf 0x12 (genBits rd) (genBits rs1) (genBits rs2) 0
  | .fsqr rd rs => wordOf 0x13 (genBits rd) (genBits rs) 0 0
  | .finv rd rs => wordOf 0x14 (genBits rd) (genBits rs) 0 0
  | .padd pd ps1 ps2 => wordOf 0x20 (pointBits pd) (pointBits ps1) (pointBits ps2) 0
  | .pdbl pd ps => wordOf 0x21 (pointBits pd) (pointBits ps) 0 0
  | .pmul pd rk ps => wordOf 0x22 (pointBits pd) (genBits rk) (pointBits ps) 0
  | .pchk ps => wordOf 0x23 0 (pointBits ps) 0 0
  | .pldg pd => wordOf 0x24 (pointBits pd) 0 0 0
  | .zinit => wordOf 0x30 0 0 0 0
  | .zgen => wordOf 0x31 0 0 0 0
  | .zxor n => wordOf 0x32 0 0 0 n

end Sys2Proof
end

