-- ==== Sys2Proof/Machine/State.lean ====
section
/-! DEFINITION. The machine's state as plain data (10_state R30), the reasons a step can stop, and the state after reset
(R56). -/

namespace Sys2Proof.Machine

/-- A point register's triple (10_state R44). The triple need not be a point of the curve: the host may write any bits. -/
structure PointTriple where
  x : U256
  y : U256
  inf : Bool
  deriving DecidableEq, Repr

/-- ZucState: sixteen LFSR cells S[0..15] and the two memory cells R1, R2 (10_state R50, R51). -/
structure ZucState where
  cells : Vector LfsrCell 16
  r1 : Word
  r2 : Word
  deriving DecidableEq, Repr

/-- The completion codes (60_exceptions R302). -/
inductive Code where
  | ok
  | illegal
  | range
  | noInv
  | invPoint
  | notInit
  deriving DecidableEq, Repr

/-- What happens to the block from outside, or the turn of its engine (log 2). One input is one step. -/
inductive Input where
  /-- The host's MemRead(off, size) (00_scope R12). -/
  | memRead (off size : Nat)
  /-- The host's MemWrite(off, size, v) (00_scope R12). -/
  | memWrite (off size : Nat) (v : Word)
  /-- The platform asserts the hardware reset input (70_reset R350). -/
  | hardReset
  /-- The engine's turn: it completes the command in flight, if there is one (00_scope R18). -/
  | engineTurn
  deriving DecidableEq, Repr

/-- The state. The first group is the block's own, all of 10_state R30; the last three fields are the model's. -/
structure State where
  /-- R[0..15] (R32). -/
  gpr : Vector U256 16
  /-- P[0..3] (R44). -/
  pts : Vector PointTriple 4
  /-- CTRL.IE (R34). -/
  ie : Bool
  /-- STATUS.DONE (R37). -/
  done : Bool
  /-- STATUS.ERR (R38). -/
  err : Bool
  /-- STATUS.WERR (R39). -/
  werr : Bool
  /-- ZRDY, read as STATUS.ZRDY (R40). -/
  zrdy : Bool
  /-- STATUS.ONC (R41). -/
  onc : Bool
  /-- STATUS.PKV (R41). -/
  pkv : Bool
  /-- STATUS.LASTERR (R42). -/
  lastErr : BitVec 4
  /-- KEY[0..3] (R45). -/
  key : Vector Word 4
  /-- IV[0..3] (R46). -/
  iv : Vector Word 4
  /-- DIN (R47). -/
  din : Word
  /-- DOUT (R48). -/
  dout : Word
  /-- ZOUT (R49). -/
  zout : Word
  /-- S[0..15], R1, R2 (R50, R51). -/
  zuc : ZucState
  /-- CMDL, the accepted command word (R52). -/
  cmdl : Word
  /-- INFLIGHT, read as STATUS.BUSY (R52, R36). -/
  inflight : Bool
  /-- The model's own: the events still to happen, oldest first, in the one total order of 20_memory R85 (log 2). -/
  inputs : List Input
  /-- The model's own: the answers of the host's reads, as (offset, word), newest first (log 3). -/
  responses : List (Nat × Word)
  /-- The model's own: how many busy reads there have been, the index of the next `Config.busyRead` (log 4). -/
  draws : Nat
  deriving DecidableEq, Repr

/-- Nothing in the spec stops the machine: every command completes (R301, R307). No fault exists, so none is raised:
there is no constructor, and nothing is lost or gained by it (safe). -/
inductive Fault where
  deriving DecidableEq, Repr

/-- Why the model does not admit an input. No command ever ends in one. -/
inductive Refusal where
  /-- An instruction without a meaning. Nobody raises it: all fourteen commands have their meaning (safe). -/
  | notModelled (mnemonic : String)
  /-- Raised by a host access of a size other than 4 (20_memory R71: "A model refuses"); safe. -/
  | accessSize (size : Nat)
  /-- Raised by a host access at an offset that is no multiple of 4 (20_memory R71); safe. -/
  | misaligned (off : Nat)
  /-- Raised by a host access above 0xFFC (20_memory R71, "not an access to the block"); safe. -/
  | outsideWindow (off : Nat)
  deriving DecidableEq, Repr

/-- The canonical infinity (0, 0, 1) (10_state R44). -/
def canonicalInfinity : PointTriple := ⟨0, 0, true⟩

/-- The block after reset: the table of 10_state R56. CMDL, "unspecified, unobservable" there, is 0 (DESIGN CHOICE,
log 5); no event is waiting, no read has been made (DESIGN CHOICE, logs 2, 3 and 4). -/
def State.reset : State where
  gpr := Vector.replicate 16 0
  pts := Vector.replicate 4 canonicalInfinity
  ie := false
  done := false
  err := false
  werr := false
  zrdy := false
  onc := false
  pkv := false
  lastErr := 0
  key := Vector.replicate 4 0
  iv := Vector.replicate 4 0
  din := 0
  dout := 0
  zout := 0
  zuc := ⟨Vector.replicate 16 0, 0, 0⟩
  cmdl := 0
  inflight := false
  inputs := []
  responses := []
  draws := 0

end Sys2Proof.Machine
end

