-- ==== Sys2Proof/Machine/Constants.lean ====
section
/-! DEFINITION. The named constants of the block: the identification word, the SM2 prime, the curve and its base point,
the LFSR modulus. -/

namespace Sys2Proof.Machine

/-- ID always reads 0x53325A01 (10_state R33). -/
def idValue : Word := 0x53325A01

/-- p, the SM2 recommended prime (40_field R130). -/
def fieldPrime : Nat := 0xFFFFFFFEFFFFFFFFFFFFFFFFFFFFFFFFFFFFFFFF00000000FFFFFFFFFFFFFFFF

/-- a = p - 3 (41_point R170). -/
def curveA : Nat := 0xFFFFFFFEFFFFFFFFFFFFFFFFFFFFFFFFFFFFFFFF00000000FFFFFFFFFFFFFFFC

/-- b (41_point R170). -/
def curveB : Nat := 0x28E9FA9E9D9F5E344D5A9E4BCF6509A7F39789F515AB8F92DDBCBD414D940E93

/-- The x coordinate of the base point G (41_point R171). -/
def baseX : Nat := 0x32C4AE2C1F1981195F9904466A39C9948FE30BBFF2660BE1715A4589334C74C7

/-- The y coordinate of the base point G (41_point R171). -/
def baseY : Nat := 0xBC3736A2F4F6779C59BDCEE36B692153D0A9877CC62A474002DF32E52139F0A0

/-- n, the order of G (41_point R171). -/
def groupOrder : Nat := 0xFFFFFFFEFFFFFFFFFFFFFFFFFFFFFFFF7203DF6B21C6052B53BBF40939D54123

/-- M31 = 2^31 - 1 (42_zuc R220). -/
def m31 : Nat := 0x7FFFFFFF

end Sys2Proof.Machine
end

