-- ==== Sys2Proof/Machine/Ops.lean ====
section
/-! DEFINITION. The named operations over the state: writing a register, the words of a 256-bit register, accepting a
command, completing it (with E_OK or with an error: the block's one way of taking an error), and the reset. -/

namespace Sys2Proof.Machine

/-- Word j of a 256-bit value: V[255-32j : 224-32j] (20_memory R75). -/
def wordGet (v : U256) (j : Fin 8) : Word :=
  v.extractLsb' (224 - 32 * j.val) 32

/-- V with bits [255-32j : 224-32j] replaced by w, other bits unchanged (20_memory R75). -/
def wordSet (v : U256) (j : Fin 8) (w : Word) : U256 :=
  (v &&& ~~~((BitVec.allOnes 32).setWidth 256 <<< (224 - 32 * j.val))) ||| (w.setWidth 256 <<< (224 - 32 * j.val))

/-- R[i] <- v (00_scope R11). -/
def State.setGpr (s : State) (i : GenReg) (v : U256) : State :=
  { s with gpr := s.gpr.set i.val v }

/-- P[i] <- t, all three fields at once (00_scope R11). -/
def State.setPoint (s : State) (i : PointReg) (t : PointTriple) : State :=
  { s with pts := s.pts.set i.val t }

/-- KEY[j] <- w (10_state R45). -/
def State.setKey (s : State) (j : Fin 4) (w : Word) : State :=
  { s with key := s.key.set j.val w }

/-- IV[j] <- w (10_state R46). -/
def State.setIv (s : State) (j : Fin 4) (w : Word) : State :=
  { s with iv := s.iv.set j.val w }

/-- DIN <- w (10_state R47). -/
def State.setDin (s : State) (w : Word) : State :=
  { s with din := w }

/-- CTRL.IE <- b (10_state R34). -/
def State.setIe (s : State) (b : Bool) : State :=
  { s with ie := b }

/-- STATUS.WERR <- 1: a host write is ignored because BUSY = 1 (10_state R39). -/
def State.markWerr (s : State) : State :=
  { s with werr := true }

/-- The ZUC state becomes `z` and ZRDY <- 1 (42_zuc R232). -/
def State.setZucReady (s : State) (z : ZucState) : State :=
  { s with zuc := z, zrdy := true }

/-- ZOUT <- w, the ZUC state having moved on to `z` (42_zuc R233). -/
def State.setZout (s : State) (w : Word) (z : ZucState) : State :=
  { s with zout := w, zuc := z }

/-- DOUT <- w, the ZUC state having moved on to `z` (43_xor R270). -/
def State.setDout (s : State) (w : Word) (z : ZucState) : State :=
  { s with dout := w, zuc := z }

/-- STATUS.ONC and STATUS.PKV, the result flags of PCHK (10_state R41). -/
def State.setCheck (s : State) (onc pkv : Bool) : State :=
  { s with onc := onc, pkv := pkv }

/-- The number of a completion code in LASTERR (60_exceptions R302). -/
def Code.bits : Code → BitVec 4
  | .ok => 0
  | .illegal => 1
  | .range => 2
  | .noInv => 3
  | .invPoint => 4
  | .notInit => 5

/-- Acceptance of the word v (60_exceptions R300): CMDL <- v, INFLIGHT <- 1, DONE <- 0, and nothing else. -/
def State.accept (s : State) (v : Word) : State :=
  { s with cmdl := v, inflight := true, done := false }

/-- The completion bookkeeping (60_exceptions R301): LASTERR <- code, ERR <- 1 unless the code is E_OK, DONE <- 1,
INFLIGHT <- 0. With a code other than E_OK this is all that an error does: it saves nothing and transfers nothing (R307). -/
def State.complete (s : State) (c : Code) : State :=
  { s with lastErr := c.bits, err := s.err || c != .ok, done := true, inflight := false }

/-- The end of a command: its writes and `complete` with E_OK, or `raise E_X`, which makes none of its writes
(00_scope R13, 60_exceptions R301, R305). -/
def finish (s : State) (r : Except Code State) : Host.Outcome State Fault Refusal :=
  match r with
  | .ok t => .next (t.complete .ok)
  | .error c => .next (s.complete c)

/-- The block reset, from either source (70_reset R351): every piece of the block's state takes its value of R56. What
lies outside the block (the inputs to come, the answers the host has, the free values used) stays. -/
def State.blockReset (s : State) : State :=
  { State.reset with inputs := s.inputs, responses := s.responses, draws := s.draws }

/-- The clock cycles from acceptance of a word to its completion: by the opcode alone for a command, one parameter for
every illegal word (00_scope R8, 70_reset R362). No step uses it. -/
def commandLatency (w : Word) : ℕ+ :=
  match decode w with
  | .ok _ => Config.latency (opcodeOf w)
  | .error _ => Config.illegalLatency

end Sys2Proof.Machine
end

