-- ==== Sys2Proof/Machine/Operands.lean ====
section
/-! DEFINITION. The operand forms: a residue read from a general register, a scalar, a point value read from a point
register and stored to one, and the byte mask of ZXOR. -/

namespace Sys2Proof.Machine

/-- R[i] read as an unsigned integer (10_state R32, 41_point R182: a scalar is "any value in [0, 2^256-1]"). -/
def readScalar (s : State) (i : GenReg) : Nat :=
  (s.gpr[i.val]).toNat

/-- InRange(v) = (v < p) (40_field R131). -/
def inRange (v : Nat) : Bool :=
  v < fieldPrime

/-- A curve-point value: the point at infinity O, or an affine pair of integers (00_scope R14). -/
inductive CurvePoint where
  | infinity
  | affine (x y : Nat)
  deriving DecidableEq, Repr

/-- PointOf (41_point R172): inf = 1 denotes O whatever x and y hold. -/
def pointOf (t : PointTriple) : CurvePoint :=
  if t.inf then .infinity else .affine t.x.toNat t.y.toNat

/-- Store (41_point R173): O is written as the canonical infinity. -/
def storePoint : CurvePoint → PointTriple
  | .infinity => canonicalInfinity
  | .affine x y => ⟨BitVec.ofNat 256 x, BitVec.ofNat 256 y, false⟩

/-- The point value of P[i]. -/
def readPoint (s : State) (i : PointReg) : CurvePoint :=
  pointOf s.pts[i.val]

/-- The mask of the top n bytes of a word, 2^32 - 2^(32 - 8n) (43_xor R270). -/
def topBytesMask (n : BitVec 3) : Word :=
  BitVec.ofNat 32 (2 ^ 32 - 2 ^ (32 - 8 * n.toNat))

end Sys2Proof.Machine
end

