-- ==== Sys2Proof/Machine/Flags.lean ====
section
/-! DEFINITION. STATUS, CTRL and IRQ: the words the host reads and the effect of writing them (10_state R34, R35, R55). There
are no arithmetic condition codes (R54). -/

namespace Sys2Proof.Machine

/-- STATUS as the host reads it (10_state R35): BUSY 0, DONE 1, ERR 2, WERR 3, ZRDY 4, ONC 5, PKV 6, reserved 7,
LASTERR 11:8, reserved 31:12. BUSY reads INFLIGHT (R52). -/
def statusWord (s : State) : Word :=
  (0 : BitVec 20) ++ s.lastErr ++ (0 : BitVec 1) ++ BitVec.ofBool s.pkv ++ BitVec.ofBool s.onc ++ BitVec.ofBool s.zrdy
    ++ BitVec.ofBool s.werr ++ BitVec.ofBool s.err ++ BitVec.ofBool s.done ++ BitVec.ofBool s.inflight

/-- A host write of v to STATUS (10_state R35): bits 3:1 set to 1 clear WERR, ERR, DONE; every other bit is ignored. -/
def State.writeStatus (s : State) (v : Word) : State :=
  { s with
    done := s.done && !v.getLsbD 1
    err := s.err && !v.getLsbD 2
    werr := s.werr && !v.getLsbD 3 }

/-- CTRL as the host reads it (10_state R34): IE in bit 0, everything else 0. -/
def ctrlWord (s : State) : Word :=
  (0 : BitVec 31) ++ BitVec.ofBool s.ie

/-- A host write of v to CTRL (10_state R34): SRST = 1 resets the block whatever v[0] is, otherwise IE <- v[0]. -/
def State.writeCtrl (s : State) (v : Word) : State :=
  if v.getLsbD 1 then s.blockReset else s.setIe (v.getLsbD 0)

/-- The interrupt output: IRQ = CTRL.IE and STATUS.DONE, not a stored bit (10_state R55, 60_exceptions R310). -/
def State.irq (s : State) : Bool :=
  s.ie && s.done

end Sys2Proof.Machine
end

