-- ==== Sys2Proof/Machine/Control.lean ====
section
/-! DEFINITION. The control command NOP (44_control). -/

namespace Sys2Proof.Machine

/-- NOP (R290): a clean completion, nothing else. -/
def execNop (s : State) : Host.Outcome State Fault Refusal :=
  finish s (.ok s)

end Sys2Proof.Machine
end

