-- ==== Sys2Proof/Machine/Field.lean ====
section
/-! DEFINITION. The field arithmetic unit (40_field): exact integer arithmetic reduced mod p, and the commands FADD, FSUB,
FMUL, FSQR and FINV. -/

namespace Sys2Proof.Machine

/-- The representative of v mod p in [0, p-1], also for negative v (00_scope R10). -/
def modP (v : Int) : Nat :=
  (v % (fieldPrime : Int)).toNat

/-- The low `w` bits of k, most significant first. -/
def bitsMsbFirst : Nat → Nat → List Bool
  | 0, _ => []
  | w + 1, k => k.testBit w :: bitsMsbFirst w k

/-- Exponentiation mod p by the bits of the exponent, most significant first: a square a bit, and a product for a 1. -/
def powBits (base : Nat) : List Bool → Nat → Nat
  | [], acc => acc
  | bit :: bits, acc =>
    let square := acc * acc % fieldPrime
    powBits base bits (if bit then square * base % fieldPrime else square)

/-- inv(v) = v^(p-2) mod p (40_field R137), Fermat's method with the fixed exponent p - 2 (90_conflicts C3). -/
def invP (v : Int) : Nat :=
  powBits (modP v) (bitsMsbFirst 256 (fieldPrime - 2)) 1

/-- A field command with two sources: both are read and range-checked before R[rd] is written (R131, R132, R140). -/
def fieldBinary (f : Nat → Nat → Nat) (rd rs1 rs2 : GenReg) (s : State) : Except Code State :=
  let a := readScalar s rs1
  let b := readScalar s rs2
  if inRange a && inRange b then .ok (s.setGpr rd (BitVec.ofNat 256 (f a b))) else .error .range

/-- FADD rd, rs1, rs2 (R133). -/
def execFadd (rd rs1 rs2 : GenReg) (s : State) : Host.Outcome State Fault Refusal :=
  finish s (fieldBinary (fun a b => modP (a + b)) rd rs1 rs2 s)

/-- FSUB rd, rs1, rs2 (R134): the difference of integers, then its representative in [0, p-1]. -/
def execFsub (rd rs1 rs2 : GenReg) (s : State) : Host.Outcome State Fault Refusal :=
  finish s (fieldBinary (fun a b => modP ((a : Int) - b)) rd rs1 rs2 s)

/-- FMUL rd, rs1, rs2 (R135): the exact product, then its reduction. -/
def execFmul (rd rs1 rs2 : GenReg) (s : State) : Host.Outcome State Fault Refusal :=
  finish s (fieldBinary (fun a b => modP (a * b)) rd rs1 rs2 s)

/-- FSQR rd, rs (R136). -/
def execFsqr (rd rs : GenReg) (s : State) : Host.Outcome State Fault Refusal :=
  let a := readScalar s rs
  finish s (if inRange a then .ok (s.setGpr rd (BitVec.ofNat 256 (modP (a * a)))) else .error .range)

/-- FINV rd, rs (R137): E_RANGE is tested before E_NOINV (60_exceptions R304). -/
def execFinv (rd rs : GenReg) (s : State) : Host.Outcome State Fault Refusal :=
  let a := readScalar s rs
  finish s
    (if inRange a then
      if a = 0 then .error .noInv else .ok (s.setGpr rd (BitVec.ofNat 256 (invP a)))
    else .error .range)

end Sys2Proof.Machine
end

