-- ==== Sys2Proof/Machine/Curve.lean ====
section
/-! DEFINITION. The curve y² = x³ + ax + b over GF(p) and its group law in affine form (41_point R170-R178), and the
Montgomery ladder (R199). -/

namespace Sys2Proof.Machine

/-- The base point G (R171). -/
def basePoint : CurvePoint :=
  .affine baseX baseY

/-- OnCurve (R174): a coordinate that is no residue is not on the curve. -/
def onCurve : CurvePoint → Bool
  | .infinity => true
  | .affine x y =>
    x < fieldPrime && y < fieldPrime && modP ((y * y : Int) - (x * x * x + curveA * x + curveB)) == 0

/-- Neg (R175). -/
def negPoint : CurvePoint → CurvePoint
  | .infinity => .infinity
  | .affine x y => .affine x (modP ((fieldPrime : Int) - y))

/-- The third point of a line of slope lam through (x1, y1) and a point of abscissa x2, negated (R176, R177):
x3 = lam² - x1 - x2, y3 = lam (x1 - x3) - y1. -/
def chordThird (lam x1 y1 x2 : Nat) : CurvePoint :=
  let x3 := modP ((lam * lam : Int) - x1 - x2)
  .affine x3 (modP (lam * ((x1 : Int) - x3) - y1))

/-- Dbl (R176): tangent-line doubling. -/
def doublePoint : CurvePoint → CurvePoint
  | .infinity => .infinity
  | .affine x y =>
    if y = 0 then .infinity
    else chordThird (modP ((3 * x * x + curveA) * invP (2 * y))) x y x

/-- Add (R177): chord-and-tangent addition; P = -Q and P = Q are detected by the values, never by register numbers. -/
def addPoint : CurvePoint → CurvePoint → CurvePoint
  | .infinity, q => q
  | q, .infinity => q
  | .affine x1 y1, .affine x2 y2 =>
    if x1 = x2 ∧ modP (y1 + y2) = 0 then .infinity
    else if x1 = x2 then doublePoint (.affine x1 y1)
    else chordThird (modP (((y2 : Int) - y1) * invP ((x2 : Int) - x1))) x1 y1 x2

/-- k·Q by its definition (R178): 0·Q = O, (k+1)·Q = Add(k·Q, Q). -/
def scalarMultiple : Nat → CurvePoint → CurvePoint
  | 0, _ => .infinity
  | k + 1, q => addPoint (scalarMultiple k q) q

/-- The Montgomery ladder over a scalar's bits, most significant first (R199): one addition and one doubling a bit. -/
def ladder : List Bool → CurvePoint → CurvePoint → CurvePoint
  | [], a0, _ => a0
  | bit :: bits, a0, a1 =>
    if bit then ladder bits (addPoint a0 a1) (doublePoint a1) else ladder bits (doublePoint a0) (addPoint a0 a1)

/-- PMUL's result by the required operation sequence: the ladder over all 256 bits of k, from (O, Q) (R199). -/
def ladderMultiple (k : Nat) (q : CurvePoint) : CurvePoint :=
  ladder (bitsMsbFirst 256 k) .infinity q

end Sys2Proof.Machine
end

