-- ==== Sys2Proof/Machine/Point.lean ====
section
/-! DEFINITION. The commands of the point arithmetic unit (41_point R180-R184): PADD, PDBL, PMUL, PCHK, PLDG. -/

namespace Sys2Proof.Machine

/-- PADD pd, ps1, ps2 (R180). -/
def execPadd (pd ps1 ps2 : PointReg) (s : State) : Host.Outcome State Fault Refusal :=
  let q1 := readPoint s ps1
  let q2 := readPoint s ps2
  finish s (if onCurve q1 && onCurve q2 then .ok (s.setPoint pd (storePoint (addPoint q1 q2))) else .error .invPoint)

/-- PDBL pd, ps (R181). -/
def execPdbl (pd ps : PointReg) (s : State) : Host.Outcome State Fault Refusal :=
  let q := readPoint s ps
  finish s (if onCurve q then .ok (s.setPoint pd (storePoint (doublePoint q))) else .error .invPoint)

/-- PMUL pd, rk, ps (R182): the scalar is never range-checked. The value is computed by the ladder of R199, which for a
point of the curve is k·Q of R178 (DEDUCED, log 10). -/
def execPmul (pd : PointReg) (rk : GenReg) (ps : PointReg) (s : State) : Host.Outcome State Fault Refusal :=
  let k := readScalar s rk
  let q := readPoint s ps
  finish s (if onCurve q then .ok (s.setPoint pd (storePoint (ladderMultiple k q))) else .error .invPoint)

/-- PCHK ps (R183): an off-curve point is a result here, not an error. -/
def execPchk (ps : PointReg) (s : State) : Host.Outcome State Fault Refusal :=
  let q := readPoint s ps
  finish s (.ok (s.setCheck (onCurve q) (onCurve q && q != .infinity)))

/-- PLDG pd (R184). -/
def execPldg (pd : PointReg) (s : State) : Host.Outcome State Fault Refusal :=
  finish s (.ok (s.setPoint pd (storePoint basePoint)))

end Sys2Proof.Machine
end

