-- ==== Sys2Proof/Machine/Zuc.lean ====
section
/-! DEFINITION. The ZUC keystream generator (42_zuc): key loading, bit reorganisation, the nonlinear function F, the LFSR
steps, and the commands ZINIT and ZGEN. -/

namespace Sys2Proof.Machine

/-- Byte i of the sixteen bytes held in four words, byte 4j in bits 31:24 of word j (20_memory R76). -/
def keyByte (ws : Vector Word 4) (i : Fin 16) : Byte :=
  (ws[i.val / 4]).extractLsb' (24 - 8 * (i.val % 4)) 8

/-- S[i] = k_i ‖ d_i ‖ iv_i (R224). -/
def loadCell (key iv : Vector Word 4) (i : Fin 16) : LfsrCell :=
  keyByte key i ++ loadConstants[i.val] ++ keyByte iv i

/-- KeyLoad (R224). -/
def keyLoad (key iv : Vector Word 4) : ZucState :=
  ⟨Vector.ofFn (loadCell key iv), 0, 0⟩

/-- H(s) = s[30:15] of a cell (R225). -/
def cellHigh (c : LfsrCell) : BitVec 16 := c.extractLsb' 15 16

/-- L(s) = s[15:0] of a cell (R225). -/
def cellLow (c : LfsrCell) : BitVec 16 := c.extractLsb' 0 16

/-- H32(w) = w[31:16] (R225). -/
def wordHigh (w : Word) : BitVec 16 := w.extractLsb' 16 16

/-- L32(w) = w[15:0] (R225). -/
def wordLow (w : Word) : BitVec 16 := w.extractLsb' 0 16

/-- X0 of the bit reorganisation (R225). -/
def reorgX0 (z : ZucState) : Word := cellHigh z.cells[15] ++ cellLow z.cells[14]

/-- X1 of the bit reorganisation (R225). -/
def reorgX1 (z : ZucState) : Word := cellLow z.cells[11] ++ cellHigh z.cells[9]

/-- X2 of the bit reorganisation (R225). -/
def reorgX2 (z : ZucState) : Word := cellLow z.cells[7] ++ cellHigh z.cells[5]

/-- X3 of the bit reorganisation (R225). -/
def reorgX3 (z : ZucState) : Word := cellLow z.cells[2] ++ cellHigh z.cells[0]

/-- The linear transform L1 (R226). -/
def linear1 (x : Word) : Word :=
  x ^^^ x.rotateLeft 2 ^^^ x.rotateLeft 10 ^^^ x.rotateLeft 18 ^^^ x.rotateLeft 24

/-- The linear transform L2 (R226). -/
def linear2 (x : Word) : Word :=
  x ^^^ x.rotateLeft 8 ^^^ x.rotateLeft 14 ^^^ x.rotateLeft 22 ^^^ x.rotateLeft 30

/-- The 32-bit S-box layer (R227). -/
def sboxLayer (x : Word) : Word :=
  sboxLookup sbox0Rows (x.extractLsb' 24 8) ++ sboxLookup sbox1Rows (x.extractLsb' 16 8)
    ++ sboxLookup sbox0Rows (x.extractLsb' 8 8) ++ sboxLookup sbox1Rows (x.extractLsb' 0 8)

/-- W, the word F returns: (X0 xor R1) ⊞ R2 (R228). -/
def fWord (z : ZucState) : Word :=
  (reorgX0 z ^^^ z.r1) + z.r2

/-- F's update of the memory cells R1 and R2 (R228). The LFSR cells are unchanged. -/
def fUpdate (z : ZucState) : ZucState :=
  let w1 := z.r1 + reorgX1 z
  let w2 := z.r2 ^^^ reorgX2 z
  { z with
    r1 := sboxLayer (linear1 (wordLow w1 ++ wordHigh w2))
    r2 := sboxLayer (linear2 (wordLow w2 ++ wordHigh w1)) }

/-- The LFSR's linear recurrence mod M31 before the zero is replaced (R229, R230). -/
def lfsrFeedback (z : ZucState) : Nat :=
  (2 ^ 15 * (z.cells[15]).toNat + 2 ^ 17 * (z.cells[13]).toNat + 2 ^ 21 * (z.cells[10]).toNat
    + 2 ^ 20 * (z.cells[4]).toNat + (1 + 2 ^ 8) * (z.cells[0]).toNat) % m31

/-- The new cell for the field element v: M31 stands for 0 (R220, R229, R230). -/
def cellOf (v : Nat) : LfsrCell :=
  BitVec.ofNat 31 (if v = 0 then m31 else v)

/-- (S[0], ..., S[14], S[15]) <- (S[1], ..., S[15], c) (R229, R230). -/
def shiftIn (z : ZucState) (c : LfsrCell) : ZucState :=
  let s := z.cells
  { z with cells := #v[s[1], s[2], s[3], s[4], s[5], s[6], s[7], s[8], s[9], s[10], s[11], s[12], s[13], s[14], s[15], c] }

/-- LFSRInit(u) (R229). -/
def lfsrInit (u : Nat) (z : ZucState) : ZucState :=
  shiftIn z (cellOf ((lfsrFeedback z + u) % m31))

/-- LFSRWork() (R230). -/
def lfsrWork (z : ZucState) : ZucState :=
  shiftIn z (cellOf (lfsrFeedback z))

/-- The word of one keystream step: F's output xor X3, the whitening (R231). -/
def keystreamWord (z : ZucState) : Word :=
  fWord z ^^^ reorgX3 z

/-- The ZUC state after one work-mode step, by which ZGEN and ZXOR draw one word (R231). -/
def keystreamNext (z : ZucState) : ZucState :=
  lfsrWork (fUpdate z)

/-- One initialisation round: LFSRInit of W >> 1, 31 bits (R232). -/
def initRound (z : ZucState) : ZucState :=
  lfsrInit ((fWord z).toNat / 2) (fUpdate z)

/-- `n` initialisation rounds. -/
def initRounds : Nat → ZucState → ZucState
  | 0, z => z
  | n + 1, z => initRounds n (initRound z)

/-- Key and IV setup (R232): loading, 32 rounds, and one work-mode step whose output is discarded. -/
def zucInit (key iv : Vector Word 4) : ZucState :=
  keystreamNext (initRounds 32 (keyLoad key iv))

/-- ZINIT (R232). -/
def execZinit (s : State) : Host.Outcome State Fault Refusal :=
  finish s (.ok (s.setZucReady (zucInit s.key s.iv)))

/-- ZGEN (R233). -/
def execZgen (s : State) : Host.Outcome State Fault Refusal :=
  finish s (if s.zrdy then .ok (s.setZout (keystreamWord s.zuc) (keystreamNext s.zuc)) else .error .notInit)

end Sys2Proof.Machine
end

