-- ==== Sys2Proof/Machine/Xor.lean ====
section
/-! DEFINITION. The stream-cipher XOR data path (43_xor): ZXOR. -/

namespace Sys2Proof.Machine

/-- ZXOR n (43_xor R270): a block of n bytes consumes one whole keystream word. An illegal count completes with E_ILLEGAL,
even with ZRDY = 0 (60_exceptions R304); `decode` never answers one. -/
def execZxor (n : BitVec 3) (s : State) : Host.Outcome State Fault Refusal :=
  finish s
    (if byteCountLegal n then
      if s.zrdy then
        .ok (s.setDout ((s.din ^^^ keystreamWord s.zuc) &&& topBytesMask n) (keystreamNext s.zuc))
      else .error .notInit
    else .error .illegal)

end Sys2Proof.Machine
end

