-- ==== Sys2Proof/Machine/Dispatch.lean ====
section
/-! DEFINITION. exec: the engine's execution of one command, with its completion (60_exceptions R301), one arm per command. -/

namespace Sys2Proof.Machine

def exec (i : Instr) (s : State) : Host.Outcome State Fault Refusal :=
  match i with
  | .nop => Sys2Proof.Machine.execNop s
  | .fadd rd rs1 rs2 => Sys2Proof.Machine.execFadd rd rs1 rs2 s
  | .fsub rd rs1 rs2 => Sys2Proof.Machine.execFsub rd rs1 rs2 s
  | .fmul rd rs1 rs2 => Sys2Proof.Machine.execFmul rd rs1 rs2 s
  | .fsqr rd rs => Sys2Proof.Machine.execFsqr rd rs s
  | .finv rd rs => Sys2Proof.Machine.execFinv rd rs s
  | .padd pd ps1 ps2 => Sys2Proof.Machine.execPadd pd ps1 ps2 s
  | .pdbl pd ps => Sys2Proof.Machine.execPdbl pd ps s
  | .pmul pd rk ps => Sys2Proof.Machine.execPmul pd rk ps s
  | .pchk ps => Sys2Proof.Machine.execPchk ps s
  | .pldg pd => Sys2Proof.Machine.execPldg pd s
  | .zinit => Sys2Proof.Machine.execZinit s
  | .zgen => Sys2Proof.Machine.execZgen s
  | .zxor n => Sys2Proof.Machine.execZxor n s

end Sys2Proof.Machine
end

