-- ==== Sys2Proof/Machine/Window.lean ====
section
/-! DEFINITION. The register window (20_memory): the address map, one word's read and write, and the host's accesses while
the engine is idle and while it is busy. -/

namespace Sys2Proof.Machine

/-- What stands at one word of the window (20_memory R72). -/
inductive WindowReg where
  | id
  | ctrl
  | status
  | cmd
  | zout
  | din
  | dout
  | key (j : Fin 4)
  | iv (j : Fin 4)
  | gpr (i : GenReg) (j : Fin 8)
  | pointX (i : PointReg) (j : Fin 8)
  | pointY (i : PointReg) (j : Fin 8)
  | pointInf (i : PointReg)
  | reserved
  deriving DecidableEq, Repr

/-- The words of one point register, by the offset from its base 0x400 + 0x80 i (R72). -/
def pointWordAt (i : PointReg) (d : Nat) : WindowReg :=
  if d < 0x20 then .pointX i (Fin.ofNat 8 (d / 4))
  else if d < 0x40 then .pointY i (Fin.ofNat 8 ((d - 0x20) / 4))
  else if d = 0x40 then .pointInf i
  else .reserved

/-- The register window map (R72) at a word offset. Every offset not listed is reserved. -/
def windowAt (off : Nat) : WindowReg :=
  if off < 0x020 then
    match off with
    | 0x000 => .id
    | 0x004 => .ctrl
    | 0x008 => .status
    | 0x00C => .cmd
    | 0x010 => .zout
    | 0x014 => .din
    | 0x018 => .dout
    | _ => .reserved
  else if off < 0x030 then .key (Fin.ofNat 4 ((off - 0x020) / 4))
  else if off < 0x040 then .iv (Fin.ofNat 4 ((off - 0x030) / 4))
  else if off < 0x100 then .reserved
  else if off < 0x300 then .gpr (Fin.ofNat 16 ((off - 0x100) / 0x20)) (Fin.ofNat 8 ((off - 0x100) % 0x20 / 4))
  else if off < 0x400 then .reserved
  else if off < 0x600 then pointWordAt (Fin.ofNat 4 ((off - 0x400) / 0x80)) ((off - 0x400) % 0x80)
  else .reserved

/-- The word a read answers while BUSY = 0, or a word that is no data word at any time (R73-R77). KEY and CMD are
write-only and read 0, as reserved offsets do. -/
def peek (s : State) : WindowReg → Word
  | .id => idValue
  | .ctrl => ctrlWord s
  | .status => statusWord s
  | .cmd => 0
  | .zout => s.zout
  | .din => s.din
  | .dout => s.dout
  | .key _ => 0
  | .iv j => s.iv[j.val]
  | .gpr i j => wordGet s.gpr[i.val] j
  | .pointX i j => wordGet (s.pts[i.val]).x j
  | .pointY i j => wordGet (s.pts[i.val]).y j
  | .pointInf i => (0 : BitVec 31) ++ BitVec.ofBool (s.pts[i.val]).inf
  | .reserved => 0

/-- The words whose read is a draw while BUSY = 1: R, P, ZOUT and DOUT (R84). -/
def WindowReg.drawnWhileBusy : WindowReg → Bool
  | .zout | .dout | .gpr _ _ | .pointX _ _ | .pointY _ _ | .pointInf _ => true
  | .id | .ctrl | .status | .cmd | .din | .key _ | .iv _ | .reserved => false

/-- The words whose write is ignored with WERR while BUSY = 1: CMD, DIN, KEY, IV, R and P (R83). -/
def WindowReg.lockedWhileBusy : WindowReg → Bool
  | .cmd | .din | .key _ | .iv _ | .gpr _ _ | .pointX _ _ | .pointY _ _ | .pointInf _ => true
  | .id | .ctrl | .status | .zout | .dout | .reserved => false

/-- The effect of a write that is not ignored (R73, R74, R75, R80): CMD accepts, CTRL and STATUS act, ID, ZOUT, DOUT and
reserved offsets ignore it, every other write changes only the word written. -/
def poke (s : State) (v : Word) : WindowReg → State
  | .ctrl => s.writeCtrl v
  | .status => s.writeStatus v
  | .cmd => s.accept v
  | .din => s.setDin v
  | .key j => s.setKey j v
  | .iv j => s.setIv j v
  | .gpr i j => s.setGpr i (wordSet s.gpr[i.val] j v)
  | .pointX i j =>
    let t := s.pts[i.val]
    s.setPoint i { t with x := wordSet t.x j v }
  | .pointY i j =>
    let t := s.pts[i.val]
    s.setPoint i { t with y := wordSet t.y j v }
  | .pointInf i =>
    let t := s.pts[i.val]
    s.setPoint i { t with inf := v.getLsbD 0 }
  | .id | .zout | .dout | .reserved => s

/-- A read of one word of the window: its value, or the next draw for a data word while BUSY = 1 (R84). The answer goes to
the host; no read changes the block (R73, R80). -/
def readWord (s : State) (off : Nat) : State :=
  let reg := windowAt off
  if s.inflight && reg.drawnWhileBusy then
    { s with responses := (off, Config.busyRead s.draws) :: s.responses, draws := s.draws + 1 }
  else { s with responses := (off, peek s reg) :: s.responses }

/-- A write of one word of the window: ignored with WERR for a locked word while BUSY = 1 (R83), otherwise `poke`. -/
def writeWord (s : State) (off : Nat) (v : Word) : State :=
  let reg := windowAt off
  if s.inflight && reg.lockedWhileBusy then s.markWerr else poke s v reg

/-- Which accesses reach the block: one aligned 32-bit word in [0x000, 0xFFC]. "A model refuses any host action with
off mod 4 ≠ 0, a size other than 4, or off > 0xFFC" (R71; log 6). -/
def admitAccess (off size : Nat) (t : State) : Host.Outcome State Fault Refusal :=
  if size ≠ 4 then .refused (.accessSize size)
  else if off % 4 ≠ 0 then .refused (.misaligned off)
  else if 0xFFC < off then .refused (.outsideWindow off)
  else .next t

/-- The host's MemRead(off, size) (00_scope R12). -/
def hostRead (s : State) (off size : Nat) : Host.Outcome State Fault Refusal :=
  admitAccess off size (readWord s off)

/-- The host's MemWrite(off, size, v) (00_scope R12). -/
def hostWrite (s : State) (off size : Nat) (v : Word) : Host.Outcome State Fault Refusal :=
  admitAccess off size (writeWord s off v)

end Sys2Proof.Machine
end

