-- ==== Sys2Proof/Machine/Engine.lean ====
section
/-! DEFINITION. The engine's step Complete (60_exceptions R301) and the effect of one input. -/

namespace Sys2Proof.Machine

/-- Complete: Execute(CMDL) and the completion bookkeeping; decoding happens here, not at acceptance (30_encoding R107). -/
def completeCommand (s : State) : Host.Outcome State Fault Refusal :=
  match decode s.cmdl with
  | .ok i => exec i s
  | .error _ => finish s (.error .illegal)

/-- The engine's turn: Complete is enabled only while INFLIGHT = 1 (R301, 00_scope R18). With nothing in flight the block
holds its state (60_exceptions R319, 70_reset R353). -/
def engineTurn (s : State) : Host.Outcome State Fault Refusal :=
  if s.inflight then completeCommand s else .next s

/-- One input's effect on a state from whose list it has been taken. -/
def runInput (s : State) : Input → Host.Outcome State Fault Refusal
  | .memRead off size => hostRead s off size
  | .memWrite off size v => hostWrite s off size v
  | .hardReset => .next s.blockReset
  | .engineTurn => engineTurn s

/-- The state with its first input taken off. -/
def State.dropInput (s : State) : State :=
  { s with inputs := s.inputs.tail }

end Sys2Proof.Machine
end

