-- ==== Sys2Proof/Machine/Step.lean ====
section
/-! DEFINITION. One step of the block: the next event of the total order (20_memory R85), or, when no input is left, the
engine's turn (weak fairness, 00_scope R18, 70_reset R364). -/

namespace Sys2Proof.Machine

/-- One step. The list `inputs` says who moves next (log 2); with it empty the engine moves, so a command in flight
completes "in one Complete step" (70_reset R364). -/
def step (s : State) : Host.Outcome State Fault Refusal :=
  match s.inputs with
  | [] => engineTurn s
  | e :: _ => runInput s.dropInput e

/-- s with the command word accepted and the engine's turn next, so that the next step executes it. The block fetches
nothing (10_state R31): acceptance of a CMD write is how a command comes to be executed (log 1). -/
def State.withFetchWord (s : State) (nbits w : Nat) : State :=
  { s.accept (BitVec.ofNat 32 (w % 2 ^ nbits)) with inputs := .engineTurn :: s.inputs }

end Sys2Proof.Machine
end

