-- ==== Sys2Proof/Safety.lean ====
section
/-! DEFINITION. The terms the claims use: the bookkeeping of a completion, what a command leaves unchanged, and the
invariants of the block. Each is a plain predicate on states. -/

namespace Sys2Proof.Safety

open Sys2Proof.Machine

/-- The completion bookkeeping with the given code in LASTERR (60_exceptions R301). -/
structure Completed (code : BitVec 4) (s t : State) : Prop where
  lastErr : t.lastErr = code
  err : t.err = (s.err || code != 0)
  done : t.done = true
  inflight : t.inflight = false

/-- What no command writes: CTRL.IE, STATUS.WERR, KEY, IV, DIN, the command latch, and the model's own fields. -/
structure HostKept (s t : State) : Prop where
  ie : t.ie = s.ie
  werr : t.werr = s.werr
  key : t.key = s.key
  iv : t.iv = s.iv
  din : t.din = s.din
  cmdl : t.cmdl = s.cmdl
  inputs : t.inputs = s.inputs
  responses : t.responses = s.responses
  draws : t.draws = s.draws

/-- ONC and PKV, the result flags of PCHK, are unchanged. -/
structure CheckKept (s t : State) : Prop where
  onc : t.onc = s.onc
  pkv : t.pkv = s.pkv

/-- The ZUC unit is unchanged: S, R1, R2, ZRDY and its two output registers. -/
structure ZucKept (s t : State) : Prop where
  zuc : t.zuc = s.zuc
  zrdy : t.zrdy = s.zrdy
  zout : t.zout = s.zout
  dout : t.dout = s.dout

/-- Every register, result flag and piece of ZUC state is unchanged, and what no command writes. -/
structure WritesNothing (s t : State) : Prop where
  gpr : t.gpr = s.gpr
  pts : t.pts = s.pts
  check : CheckKept s t
  zuc : ZucKept s t
  host : HostKept s t

/-- Nothing but R[rd] is written. -/
structure WritesOnlyGpr (rd : GenReg) (s t : State) : Prop where
  gpr : ∀ r : GenReg, r ≠ rd → t.gpr[r.val] = s.gpr[r.val]
  pts : t.pts = s.pts
  check : CheckKept s t
  zuc : ZucKept s t
  host : HostKept s t

/-- Nothing but P[pd] is written. -/
structure WritesOnlyPoint (pd : PointReg) (s t : State) : Prop where
  gpr : t.gpr = s.gpr
  pts : ∀ r : PointReg, r ≠ pd → t.pts[r.val] = s.pts[r.val]
  check : CheckKept s t
  zuc : ZucKept s t
  host : HostKept s t

/-- Nothing outside the ZUC unit is written. -/
structure WritesOnlyZuc (s t : State) : Prop where
  gpr : t.gpr = s.gpr
  pts : t.pts = s.pts
  check : CheckKept s t
  host : HostKept s t

/-- Every word of the window but STATUS and those of `written` reads as before (with BUSY left out of account). -/
def WindowKept (written : WindowReg → Prop) (s t : State) : Prop :=
  ∀ reg, reg ≠ .status → ¬ written reg → peek t reg = peek s reg

/-- Every LFSR cell lies in [1, M31] while ZRDY = 1 (42_zuc R235): a 31-bit value that is not 0. -/
def CellsNonZero (s : State) : Prop :=
  s.zrdy = true → ∀ i : Fin 16, s.zuc.cells[i.val] ≠ 0

/-- LASTERR holds a code of this version, 0 to 5: codes 6 to 15 are never produced (60_exceptions R302). -/
def LastErrDefined (s : State) : Prop :=
  s.lastErr.toNat ≤ 5

/-- BUSY and DONE are never both 1: acceptance clears DONE, completion clears BUSY (60_exceptions R300, R301). -/
def NotBusyAndDone (s : State) : Prop :=
  ¬ (s.inflight = true ∧ s.done = true)

/-- Before the first ZINIT the ZUC unit is at its reset values (10_state R40, R56). -/
def ZucClearUntilReady (s : State) : Prop :=
  s.zrdy = false → s.zuc = State.reset.zuc ∧ s.zout = 0 ∧ s.dout = 0

/-- t is the block just after a reset, CMDL holding any word; the inputs but the first, the host's answers and the count of
draws are s's (70_reset R351, 10_state R56). -/
def IsReset (s t : State) : Prop :=
  ∃ c, t = { State.reset with cmdl := c, inputs := s.inputs.tail, responses := s.responses, draws := s.draws }

/-- The host's read of the word at `off` answers `v`, and leaves nothing but that answer. -/
def ReadAnswers (s : State) (off : Nat) (v : Word) : Prop :=
  hostRead s off 4 = .next { s with responses := (off, v) :: s.responses }

/-- What a malformed word of an opcode does: the engine's turn completes it with E_ILLEGAL, and nothing but the bookkeeping
changes (30_encoding R107). -/
def MalformedIsHarmless (opc : BitVec 8) : Prop :=
  ∀ s : State, s.inflight = true → opcodeOf s.cmdl = opc → (∀ i, decode s.cmdl ≠ .ok i) →
    ∃ t, engineTurn s = .next t ∧ Completed 1 s t ∧ WritesNothing s t

end Sys2Proof.Safety
end

