-- ==== Sys2Proof/Certificates/Slice0/Obligations.lean ====
section
/-! DEFINITION. The statements for the provers, each from the spec's rules. `Completed`, `WritesNothing`, `WritesOnlyGpr`,
`WritesOnlyPoint`, `WritesOnlyZuc` and the invariants are Sys2Proof/Safety.lean's. -/

open Sys2Proof Sys2Proof.Machine Sys2Proof.Safety

/-! ### Decoding and encoding -/

/-- Decoding the word of a legal command gives the command back, for every operand (30_encoding R102, R105). -/
def Obligations.DecodeInvertsEncode : Prop :=
  ∀ i : Instr, i.wellFormed = true → decode (encode i) = .ok i

/-- A word that decodes is the word of the command it decodes to, and that command is legal: no bit of a word is dropped
(30_encoding R102, R109). -/
def Obligations.EncodeInvertsDecode : Prop :=
  ∀ (w : Word) (i : Instr), decode w = .ok i → i.wellFormed = true ∧ encode i = w

/-- The words that decode are exactly the legal words of R106. -/
def Obligations.DecodedWordsAreTheLegalOnes : Prop :=
  ∀ w : Word, (∃ i, decode w = .ok i) ↔
    ∃ row ∈ opcodeMap, row.opc = opcodeOf w ∧ w &&& row.mask = row.pat ∧
      (row.opc ≠ 0x32 ∨ countField w ∈ [1, 2, 3, 4])

/-- Every word falls into one class: the rows of the opcode map never overlap, and a word of a reserved opcode, one of the
ranges of R108, is illegal, whatever its other bits (30_encoding R108, R109). -/
def Obligations.WordsFallInOneClass : Prop :=
  opcodeMap.Pairwise (fun r r' => r.opc ≠ r'.opc ∧ ∀ w : Word, ¬ (w &&& r.mask = r.pat ∧ w &&& r'.mask = r'.pat)) ∧
  ∀ w : Word, let opc := (opcodeOf w).toNat
    (0x01 ≤ opc ∧ opc ≤ 0x0F) ∨ (0x15 ≤ opc ∧ opc ≤ 0x1F) ∨ (0x25 ≤ opc ∧ opc ≤ 0x2F) ∨ 0x33 ≤ opc →
    decode w = .error (.reservedOpcode (opcodeOf w))

/-- Words written out from R110's table decode to what the table says, and its illegal examples do not decode. -/
def Obligations.ExampleWordsDecode : Prop :=
  decode 0x00000000 = .ok .nop ∧ decode 0x10312000 = .ok (.fadd 3 1 2) ∧ decode 0x110FF000 = .ok (.fsub 0 15 15) ∧
  decode 0x12444000 = .ok (.fmul 4 4 4) ∧ decode 0x13540000 = .ok (.fsqr 5 4) ∧ decode 0x14650000 = .ok (.finv 6 5) ∧
  decode 0x20201000 = .ok (.padd 2 0 1) ∧ decode 0x21330000 = .ok (.pdbl 3 3) ∧ decode 0x22100000 = .ok (.pmul 1 0 0) ∧
  decode 0x22291000 = .ok (.pmul 2 9 1) ∧
  decode 0x23010000 = .ok (.pchk 1) ∧ decode 0x24000000 = .ok (.pldg 0) ∧ decode 0x30000000 = .ok .zinit ∧
  decode 0x31000000 = .ok .zgen ∧ decode 0x32000004 = .ok (.zxor 4) ∧ decode 0x32000003 = .ok (.zxor 3) ∧
  ∀ w ∈ [(0x10312001 : Word), 0x13541000, 0x20401000, 0x32000000, 0x32000005, 0x15000000, 0xFFFFFFFF],
    (decode w).toOption = none

/-! ### A step, acceptance and completion -/

/-- When the engine's turn comes, at the end of the inputs or as the next of them, with a command in flight whose word
decodes to i, the step is exec of i at the state without that input (60_exceptions R301; whose turn it is stands in `inputs`, log 2). -/
def Obligations.StepRunsDecodedCommand : Prop :=
  ∀ (s : State) (i : Instr), s.inflight = true → decode s.cmdl = .ok i →
    (s.inputs = [] → step s = exec i s) ∧
    (∀ rest, s.inputs = .engineTurn :: rest → step s = exec i { s with inputs := rest })

/-- A CMD write while BUSY = 0 accepts the word: CMDL, INFLIGHT, DONE, and it changes nothing else. While BUSY = 1 it is
ignored and sets WERR (60_exceptions R300). -/
def Obligations.CmdWriteAccepts : Prop :=
  ∀ (s : State) (v : Word), hostWrite s 0x00C 4 v = .next
    (if s.inflight = true then { s with werr := true } else { s with cmdl := v, inflight := true, done := false })

/-- The host's CMD write of a legal command's word, then the engine's turn: the second step is exec of that command on the
state the acceptance left, with the registers as they stood before the write (60_exceptions R300, R301, log 2). -/
def Obligations.WrittenCommandRuns : Prop :=
  ∀ (s : State) (i : Instr) (rest : List Input), s.inflight = false → i.wellFormed = true →
    s.inputs = .memWrite 0x00C 4 (encode i) :: .engineTurn :: rest →
    ∃ s1, step s = .next s1 ∧
      step s1 = exec i { s with cmdl := encode i, inflight := true, done := false, inputs := rest }

/-- An illegal word is accepted like any other; the engine's turn then completes it with E_ILLEGAL and changes nothing but
the bookkeeping (30_encoding R107). -/
def Obligations.IllegalWordCompletesWithIllegal : Prop :=
  ∀ (s : State) (w : Word), s.inflight = false → (∀ i, decode w ≠ .ok i) →
    ∃ s1 t, hostWrite s 0x00C 4 w = .next s1 ∧ s1.cmdl = w ∧ s1.inflight = true ∧
      engineTurn s1 = .next t ∧ Completed 1 s1 t ∧ WritesNothing s1 t

/-- Whatever word is in flight, legal or not, with no input left one step completes it, the engine's turn: BUSY 0, DONE 1,
IRQ as IE says (70_reset R364, 60_exceptions R301; that the engine moves when no input is left is log 2's). -/
def Obligations.BusyEndsInOneStep : Prop :=
  ∀ s : State, s.inflight = true → s.inputs = [] →
    ∃ t, engineTurn s = .next t ∧ step s = .next t ∧ t.inflight = false ∧ t.done = true ∧ t.irq = s.ie

/-- Which code each command can complete with (60_exceptions R303). -/
def Obligations.CompletionCodesByCommand : Prop :=
  ∀ (i : Instr) (s : State), i.wellFormed = true → ∃ t, exec i s = .next t ∧
    t.lastErr ∈ (match i with
      | .nop | .pchk _ | .pldg _ | .zinit => [(0 : BitVec 4)]
      | .fadd .. | .fsub .. | .fmul .. | .fsqr .. => [0, 2]
      | .finv .. => [0, 2, 3]
      | .padd .. | .pdbl .. | .pmul .. => [0, 4]
      | .zgen | .zxor _ => [0, 5])

/-- A command that completes with a code other than E_OK makes none of its writes: its only effect is the bookkeeping, and
ERR records it (60_exceptions R305, 10_state R38). -/
def Obligations.ErrorsMakeNoPartialResult : Prop :=
  ∀ (i : Instr) (s t : State), exec i s = .next t → t.lastErr ≠ 0 → Completed t.lastErr s t ∧ t.err = true ∧ WritesNothing s t

/-! ### The commands -/

/-- NOP completes with E_OK and changes nothing besides; a word with OPC = 0x00 and any other bit set is illegal
(44_control R290). -/
def Obligations.NopOnlyCompletes : Prop :=
  (∀ s : State, ∃ t, exec .nop s = .next t ∧ Completed 0 s t ∧ WritesNothing s t) ∧
  encode .nop = 0x00000000 ∧ (∀ w : Word, opcodeOf w = 0x00 → w ≠ 0 → ∀ i, decode w ≠ .ok i) ∧ MalformedIsHarmless 0x00

/-- FADD writes (a + b) mod p to R[rd], or completes with E_RANGE and writes nothing (40_field R133). -/
def Obligations.FaddAddsModP : Prop :=
  (∀ rd rs1 rs2, (encode (.fadd rd rs1 rs2)).toNat = 0x10000000 + rd.val * 2 ^ 20 + rs1.val * 2 ^ 16 + rs2.val * 2 ^ 12) ∧
  ∀ (s : State) (rd rs1 rs2 : GenReg), let a := (s.gpr[rs1.val]).toNat; let b := (s.gpr[rs2.val]).toNat
    ∃ t, exec (.fadd rd rs1 rs2) s = .next t ∧
      if a < fieldPrime ∧ b < fieldPrime then
        Completed 0 s t ∧ (t.gpr[rd.val]).toNat = (a + b) % fieldPrime ∧ WritesOnlyGpr rd s t
      else Completed 2 s t ∧ WritesNothing s t

/-- FSUB writes (a - b) mod p, the representative in [0, p-1], or completes with E_RANGE (40_field R134). -/
def Obligations.FsubSubtractsModP : Prop :=
  (∀ rd rs1 rs2, (encode (.fsub rd rs1 rs2)).toNat = 0x11000000 + rd.val * 2 ^ 20 + rs1.val * 2 ^ 16 + rs2.val * 2 ^ 12) ∧
  ∀ (s : State) (rd rs1 rs2 : GenReg), let a := (s.gpr[rs1.val]).toNat; let b := (s.gpr[rs2.val]).toNat
    ∃ t, exec (.fsub rd rs1 rs2) s = .next t ∧
      if a < fieldPrime ∧ b < fieldPrime then
        Completed 0 s t ∧ (t.gpr[rd.val]).toNat = (if b ≤ a then a - b else a + fieldPrime - b) ∧ WritesOnlyGpr rd s t
      else Completed 2 s t ∧ WritesNothing s t

/-- FMUL writes the exact product's residue, or completes with E_RANGE (40_field R135). -/
def Obligations.FmulMultipliesModP : Prop :=
  (∀ rd rs1 rs2, (encode (.fmul rd rs1 rs2)).toNat = 0x12000000 + rd.val * 2 ^ 20 + rs1.val * 2 ^ 16 + rs2.val * 2 ^ 12) ∧
  ∀ (s : State) (rd rs1 rs2 : GenReg), let a := (s.gpr[rs1.val]).toNat; let b := (s.gpr[rs2.val]).toNat
    ∃ t, exec (.fmul rd rs1 rs2) s = .next t ∧
      if a < fieldPrime ∧ b < fieldPrime then
        Completed 0 s t ∧ (t.gpr[rd.val]).toNat = (a * b) % fieldPrime ∧ WritesOnlyGpr rd s t
      else Completed 2 s t ∧ WritesNothing s t

/-- FSQR writes a² mod p, the value FMUL rd, rs, rs writes, or completes with E_RANGE (40_field R136). -/
def Obligations.FsqrSquaresModP : Prop :=
  (∀ rd rs, (encode (.fsqr rd rs)).toNat = 0x13000000 + rd.val * 2 ^ 20 + rs.val * 2 ^ 16) ∧
  ∀ (s : State) (rd rs : GenReg), let a := (s.gpr[rs.val]).toNat
    exec (.fsqr rd rs) s = exec (.fmul rd rs rs) s ∧
    ∃ t, exec (.fsqr rd rs) s = .next t ∧
      if a < fieldPrime then Completed 0 s t ∧ (t.gpr[rd.val]).toNat = (a * a) % fieldPrime ∧ WritesOnlyGpr rd s t
      else Completed 2 s t ∧ WritesNothing s t

/-- FINV writes a^(p-2) mod p, which is the one x in [1, p-1] with (a x) mod p = 1; it completes with E_RANGE for a source at
least p and with E_NOINV for 0, writing nothing (40_field R137). -/
def Obligations.FinvInvertsModP : Prop :=
  (∀ rd rs, (encode (.finv rd rs)).toNat = 0x14000000 + rd.val * 2 ^ 20 + rs.val * 2 ^ 16) ∧
  ∀ (s : State) (rd rs : GenReg), let a := (s.gpr[rs.val]).toNat
    ∃ t, exec (.finv rd rs) s = .next t ∧
      if a < fieldPrime then
        if a = 0 then Completed 3 s t ∧ WritesNothing s t
        else
          Completed 0 s t ∧ (t.gpr[rd.val]).toNat = a ^ (fieldPrime - 2) % fieldPrime ∧
          1 ≤ (t.gpr[rd.val]).toNat ∧ (t.gpr[rd.val]).toNat < fieldPrime ∧
          (a * (t.gpr[rd.val]).toNat) % fieldPrime = 1 ∧
          (∀ x, 1 ≤ x → x < fieldPrime → a * x % fieldPrime = 1 → x = (t.gpr[rd.val]).toNat) ∧ WritesOnlyGpr rd s t
      else Completed 2 s t ∧ WritesNothing s t

/-- PADD writes Store(Add(Q1, Q2)) for two points of the curve, or completes with E_INVPOINT (41_point R180). -/
def Obligations.PaddWritesTheSum : Prop :=
  (∀ pd ps1 ps2, (encode (.padd pd ps1 ps2)).toNat = 0x20000000 + pd.val * 2 ^ 20 + ps1.val * 2 ^ 16 + ps2.val * 2 ^ 12) ∧
  ∀ (s : State) (pd ps1 ps2 : PointReg), let q1 := readPoint s ps1; let q2 := readPoint s ps2
    ∃ t, exec (.padd pd ps1 ps2) s = .next t ∧
      if onCurve q1 = true ∧ onCurve q2 = true then
        Completed 0 s t ∧ t.pts[pd.val] = storePoint (addPoint q1 q2) ∧ WritesOnlyPoint pd s t
      else Completed 4 s t ∧ WritesNothing s t

/-- PDBL writes Store(Dbl(Q)) for a point of the curve, or completes with E_INVPOINT; no point of the curve has y = 0, so
Dbl's case for it never applies (41_point R181). -/
def Obligations.PdblWritesTheDouble : Prop :=
  (∀ pd ps, (encode (.pdbl pd ps)).toNat = 0x21000000 + pd.val * 2 ^ 20 + ps.val * 2 ^ 16) ∧
  (∀ x y, onCurve (.affine x y) = true → y ≠ 0) ∧
  ∀ (s : State) (pd ps : PointReg), let q := readPoint s ps
    ∃ t, exec (.pdbl pd ps) s = .next t ∧
      if onCurve q = true then
        Completed 0 s t ∧ t.pts[pd.val] = storePoint (doublePoint q) ∧ WritesOnlyPoint pd s t
      else Completed 4 s t ∧ WritesNothing s t

/-- PMUL writes Store(k·Q), which is Store((k mod n)·Q), for every 256-bit k and every point Q of the curve, or completes
with E_INVPOINT (41_point R182; k·Q is the k-fold sum of R178, not the ladder the model runs). -/
def Obligations.PmulWritesTheMultiple : Prop :=
  (∀ pd rk ps, (encode (.pmul pd rk ps)).toNat = 0x22000000 + pd.val * 2 ^ 20 + rk.val * 2 ^ 16 + ps.val * 2 ^ 12) ∧
  ∀ (s : State) (pd : PointReg) (rk : GenReg) (ps : PointReg), let k := (s.gpr[rk.val]).toNat; let q := readPoint s ps
    ∃ t, exec (.pmul pd rk ps) s = .next t ∧
      if onCurve q = true then
        Completed 0 s t ∧ t.pts[pd.val] = storePoint (scalarMultiple k q) ∧
        t.pts[pd.val] = storePoint (scalarMultiple (k % groupOrder) q) ∧ WritesOnlyPoint pd s t
      else Completed 4 s t ∧ WritesNothing s t

/-- PCHK writes ONC and PKV by the curve equation on the triple itself and completes with E_OK; it writes no register.
PKV = 1 means a point other than O of the subgroup of order n (41_point R183, R174). -/
def Obligations.PchkReportsTheCheck : Prop :=
  (∀ ps, (encode (.pchk ps)).toNat = 0x23000000 + ps.val * 2 ^ 16) ∧ MalformedIsHarmless 0x23 ∧
  ∀ (s : State) (ps : PointReg), let p := s.pts[ps.val]; let x := p.x.toNat; let y := p.y.toNat
    ∃ t, exec (.pchk ps) s = .next t ∧ Completed 0 s t ∧
      t.onc = (p.inf || decide (x < fieldPrime ∧ y < fieldPrime ∧
        y * y % fieldPrime = (x * x * x + curveA * x + curveB) % fieldPrime)) ∧
      t.pkv = (t.onc && !p.inf) ∧
      (t.pkv = true → readPoint s ps ≠ .infinity ∧ scalarMultiple groupOrder (readPoint s ps) = .infinity) ∧
      t.gpr = s.gpr ∧ t.pts = s.pts ∧ ZucKept s t ∧ HostKept s t

/-- PLDG writes (Gx, Gy, 0) to P[pd], whatever it held (41_point R184, R171). -/
def Obligations.PldgLoadsTheBasePoint : Prop :=
  (∀ pd, (encode (.pldg pd)).toNat = 0x24000000 + pd.val * 2 ^ 20) ∧ MalformedIsHarmless 0x24 ∧
  ∀ (s : State) (pd : PointReg), ∃ t, exec (.pldg pd) s = .next t ∧ Completed 0 s t ∧
    t.pts[pd.val] = ⟨0x32C4AE2C1F1981195F9904466A39C9948FE30BBFF2660BE1715A4589334C74C7,
      0xBC3736A2F4F6779C59BDCEE36B692153D0A9877CC62A474002DF32E52139F0A0, false⟩ ∧ WritesOnlyPoint pd s t

/-- ZINIT loads the cells k_i ‖ d_i ‖ iv_i, runs 32 rounds and one discarded work step, and sets ZRDY; ZOUT, DOUT, DIN, KEY
and IV are unchanged, and whatever the old ZUC state was does not matter (42_zuc R232, R224). -/
def Obligations.ZinitInitialises : Prop :=
  encode .zinit = 0x30000000 ∧ MalformedIsHarmless 0x30 ∧
  ∀ s : State, ∃ z0 t, exec .zinit s = .next t ∧ Completed 0 s t ∧ t.zrdy = true ∧
    (∀ i : Fin 16, (z0 : ZucState).cells[i.val] = keyByte s.key i ++ loadConstants[i.val] ++ keyByte s.iv i) ∧
    z0.r1 = 0 ∧ z0.r2 = 0 ∧ t.zuc = lfsrWork (fUpdate ((fun z => lfsrInit ((fWord z).toNat / 2) (fUpdate z))^[32] z0)) ∧
    t.zout = s.zout ∧ t.dout = s.dout ∧ WritesOnlyZuc s t

/-- ZGEN writes the next keystream word, F's output xor X3, to ZOUT and moves the ZUC state on one work step; with ZRDY = 0
it completes with E_NOTINIT (42_zuc R233, R231). -/
def Obligations.ZgenDrawsTheNextWord : Prop :=
  encode .zgen = 0x31000000 ∧
  ∀ s : State, ∃ t, exec .zgen s = .next t ∧
    if s.zrdy = true then
      Completed 0 s t ∧ t.zout = ((reorgX0 s.zuc ^^^ s.zuc.r1) + s.zuc.r2) ^^^ reorgX3 s.zuc ∧
      t.zuc = lfsrWork (fUpdate s.zuc) ∧ t.zrdy = true ∧ t.dout = s.dout ∧ WritesOnlyZuc s t
    else Completed 5 s t ∧ WritesNothing s t

/-- ZXOR in its byte view: byte m of DOUT is DIN's byte m xor the keystream word's byte m for m < n, and 0 from n on; one
whole word is consumed. With ZRDY = 0 it completes with E_NOTINIT, with an illegal count with E_ILLEGAL (43_xor R270, R271). -/
def Obligations.ZxorXorsTheFirstBytes : Prop :=
  (∀ n, (encode (.zxor n)).toNat = 0x32000000 + n.toNat) ∧ MalformedIsHarmless 0x32 ∧
  ∀ (s : State) (n : BitVec 3), ∃ t, exec (.zxor n) s = .next t ∧
    if n ∈ [1, 2, 3, 4] then
      if s.zrdy = true then
        Completed 0 s t ∧
        (∀ m < 4, t.dout.extractLsb' (24 - 8 * m) 8 =
          if m < n.toNat then s.din.extractLsb' (24 - 8 * m) 8 ^^^ (keystreamWord s.zuc).extractLsb' (24 - 8 * m) 8 else 0) ∧
        t.zuc = keystreamNext s.zuc ∧ t.zrdy = true ∧ t.zout = s.zout ∧ WritesOnlyZuc s t
      else Completed 5 s t ∧ WritesNothing s t
    else Completed 1 s t ∧ WritesNothing s t

/-- Frame of every command in the window, however it completes: each word but STATUS and those of its destination reads as
before. A field command's destination is R[rd], a point command's P[pd], ZGEN's ZOUT, ZXOR's DOUT; NOP, PCHK and ZINIT have
none (10_state R53, 40_field R132). -/
def Obligations.CommandsKeepTheWindow : Prop :=
  ∀ (s t : State) (i : Instr), exec i s = .next t → WindowKept (fun reg =>
    match i with
    | .nop | .pchk _ | .zinit => False
    | .fadd rd _ _ | .fsub rd _ _ | .fmul rd _ _ | .fsqr rd _ | .finv rd _ => ∃ j, reg = .gpr rd j
    | .padd pd _ _ | .pdbl pd _ | .pmul pd _ _ | .pldg pd => reg = .pointInf pd ∨ ∃ j, reg = .pointX pd j ∨ reg = .pointY pd j
    | .zgen => reg = .zout
    | .zxor _ => reg = .dout) s t

/-! ### What the arithmetic means -/

/-- k·Q = (k mod n)·Q for every point Q of the curve, and for Q ≠ O it is O only when k ≡ 0 mod n (41_point R178). -/
def Obligations.MultiplesRepeatWithTheOrder : Prop :=
  ∀ (q : CurvePoint), onCurve q = true →
    scalarMultiple 0 q = .infinity ∧ (∀ k, scalarMultiple (k + 1) q = addPoint (scalarMultiple k q) q) ∧
    (∀ k, scalarMultiple k q = scalarMultiple (k % groupOrder) q) ∧
    (q ≠ .infinity → ∀ k, scalarMultiple k q = .infinity ↔ k % groupOrder = 0)

/-- The ECDH agreement: PMUL by dB and then by dA leaves what PMUL by dA and then by dB leaves, from any point of the
curve (41_point R201). -/
def Obligations.SharedPointsAgree : Prop :=
  ∀ (s s1 s2 t1 t2 : State) (pd ps : PointReg) (ra rb : GenReg), onCurve (readPoint s ps) = true →
    exec (.pmul pd rb ps) s = .next s1 → exec (.pmul pd ra pd) s1 = .next t1 →
    exec (.pmul pd ra ps) s = .next s2 → exec (.pmul pd rb pd) s2 = .next t2 →
    t1.pts[pd.val] = t2.pts[pd.val] ∧ t1.lastErr = 0 ∧ t2.lastErr = 0

/-- A generated key passes its check: for d in [1, n-1], PMUL of d with G and then PCHK gives ONC = 1 and PKV = 1
(41_point R201). -/
def Obligations.GeneratedKeyPassesTheCheck : Prop :=
  ∀ (s s1 s2 t : State) (p0 p1 : PointReg) (rd : GenReg),
    1 ≤ (s.gpr[rd.val]).toNat → (s.gpr[rd.val]).toNat < groupOrder →
    exec (.pldg p0) s = .next s1 → exec (.pmul p1 rd p0) s1 = .next s2 → exec (.pchk p1) s2 = .next t →
    t.onc = true ∧ t.pkv = true ∧ t.lastErr = 0

/-- The addition of the curve is a commutative group law: associative, commutative, with Neg as inverse (41_point R175,
R177). -/
def Obligations.PointAdditionIsAGroupLaw : Prop :=
  ∀ q1 q2 q3 : CurvePoint, onCurve q1 = true → onCurve q2 = true → onCurve q3 = true →
    addPoint (addPoint q1 q2) q3 = addPoint q1 (addPoint q2 q3) ∧ addPoint q1 q2 = addPoint q2 q1 ∧
    addPoint q1 (negPoint q1) = .infinity ∧ addPoint .infinity q1 = q1

/-- Every command that writes a point register writes a point of the curve, in canonical form (41_point R173). -/
def Obligations.PointCommandsStoreCurvePoints : Prop :=
  ∀ (s t : State) (i : Instr), exec i s = .next t → ∀ r : PointReg, t.pts[r.val] ≠ s.pts[r.val] →
    (onCurve (readPoint t r) = true ∧ ((t.pts[r.val]).inf = true → t.pts[r.val] = ⟨0, 0, true⟩)) ∧
    ∃ ps1 ps2 rk, i = .padd r ps1 ps2 ∨ i = .pdbl r ps1 ∨ i = .pmul r rk ps1 ∨ i = .pldg r

/-- One LFSR step in work mode: the cells move down by one, and the new cell is the representative in [1, M31] of the
recurrence (42_zuc R230, R220). -/
def Obligations.LfsrStepIsTheRecurrence : Prop :=
  ∀ z : ZucState, let s := fun i : Fin 16 => (z.cells[i.val]).toNat; let z' := lfsrWork z
    (∀ i : Fin 15, z'.cells[i.val] = z.cells[i.val + 1]) ∧
    1 ≤ (z'.cells[15]).toNat ∧ (z'.cells[15]).toNat ≤ m31 ∧
    (z'.cells[15]).toNat % m31 =
      (2 ^ 15 * s 15 + 2 ^ 17 * s 13 + 2 ^ 21 * s 10 + 2 ^ 20 * s 4 + (1 + 2 ^ 8) * s 0) % m31 ∧
    z'.r1 = z.r1 ∧ z'.r2 = z.r2

/-- The keystream depends on KEY, IV and the number of words drawn alone: ZINIT with equal KEY and IV gives equal ZUC states,
and ZGEN and ZXOR move equal ZUC states on equally (42_zuc R236). -/
def Obligations.KeystreamIsAFunctionOfKeyAndIv : Prop :=
  (∀ s1 s2 t1 t2 : State, s1.key = s2.key → s1.iv = s2.iv → exec .zinit s1 = .next t1 → exec .zinit s2 = .next t2 →
    t1.zuc = t2.zuc ∧ t1.zrdy = t2.zrdy) ∧
  (∀ (s1 s2 t1 t2 : State) (n : BitVec 3), n ∈ [1, 2, 3, 4] → s1.zuc = s2.zuc → s1.zrdy = s2.zrdy →
    exec .zgen s1 = .next t1 → exec (.zxor n) s2 = .next t2 →
    t1.zuc = t2.zuc ∧ (s1.zrdy = true → t2.dout = (s2.din ^^^ t1.zout) &&& topBytesMask n))

/-- Involution: ZXOR of a ciphertext block from the same ZUC state gives back the plaintext's first n bytes
(43_xor R273). -/
def Obligations.ZxorTwiceRestoresTheBlock : Prop :=
  ∀ (s1 s2 t1 t2 : State) (n : BitVec 3), n ∈ [1, 2, 3, 4] → s1.zrdy = true → s2.zrdy = true → s1.zuc = s2.zuc →
    exec (.zxor n) s1 = .next t1 → s2.din = t1.dout → exec (.zxor n) s2 = .next t2 →
    t2.dout = s1.din &&& topBytesMask n ∧ t2.zuc = t1.zuc

/-! ### The register window -/

/-- While BUSY = 1 a write to CMD, DIN, KEY, IV or any word of R or P is ignored and sets WERR, and changes nothing else
(20_memory R83). -/
def Obligations.BusyWritesOnlySetWerr : Prop :=
  ∀ (s : State) (off : Nat) (v : Word), s.inflight = true → off % 4 = 0 →
    (off = 0x00C ∨ off = 0x014 ∨ (0x020 ≤ off ∧ off < 0x040) ∨ (0x100 ≤ off ∧ off < 0x300) ∨
      (0x400 ≤ off ∧ off < 0x600 ∧ (off - 0x400) % 0x80 ≤ 0x40)) →
    hostWrite s off 4 v = .next { s with werr := true }

/-- A write to a reserved offset or to a read-only register is ignored, changes no state and sets no flag, whether or not
BUSY = 1 (20_memory R73). -/
def Obligations.ReservedAndReadOnlyWritesIgnored : Prop :=
  ∀ (s : State) (off : Nat) (v : Word), off % 4 = 0 → off ≤ 0xFFC →
    (off = 0x000 ∨ off = 0x010 ∨ off = 0x018 ∨ off = 0x01C ∨ (0x040 ≤ off ∧ off < 0x100) ∨ (0x300 ≤ off ∧ off < 0x400) ∨
      (0x400 ≤ off ∧ off < 0x600 ∧ 0x44 ≤ (off - 0x400) % 0x80) ∨ 0x600 ≤ off) →
    hostWrite s off 4 v = .next s

/-- A read changes nothing of the block: its only trace is the host's answer and, for a busy data read, the count of draws
(20_memory R80). A read of a reserved offset answers 0 (R73). -/
def Obligations.ReadsChangeNothing : Prop :=
  ∀ (s : State) (off : Nat), off % 4 = 0 → off ≤ 0xFFC →
    ∃ v d, hostRead s off 4 = .next { s with responses := (off, v) :: s.responses, draws := d } ∧
      ((off = 0x01C ∨ (0x040 ≤ off ∧ off < 0x100) ∨ (0x300 ≤ off ∧ off < 0x400) ∨
        (0x400 ≤ off ∧ off < 0x600 ∧ 0x44 ≤ (off - 0x400) % 0x80) ∨ 0x600 ≤ off) → v = 0 ∧ d = s.draws)

/-- While BUSY = 1 a read of a word of R or P, of ZOUT or of DOUT answers the next free value, whatever the register holds
(20_memory R84; the free value is the model's, log 4). -/
def Obligations.BusyDataReadsAreDraws : Prop :=
  ∀ (s : State) (off : Nat), s.inflight = true → off % 4 = 0 →
    (off = 0x010 ∨ off = 0x018 ∨ (0x100 ≤ off ∧ off < 0x300) ∨
      (0x400 ≤ off ∧ off < 0x600 ∧ (off - 0x400) % 0x80 ≤ 0x40)) →
    hostRead s off 4 = .next { s with
      responses := (off, Config.busyRead s.draws) :: s.responses, draws := s.draws + 1 }

/-- Every read that is no busy draw answers the register's value: ID its constant, CTRL its IE bit, STATUS its word (whose
bits StatusReadsItsFields gives), CMD, KEY and the reserved offsets 0, DIN and IV what they hold, and with BUSY = 0 also ZOUT,
DOUT and every word of R and P (20_memory R72, R73, R74, R75, R84, 10_state R33, R43, R45). -/
def Obligations.ReadsAnswerTheRegisters : Prop :=
  ∀ s : State,
    ReadAnswers s 0x000 0x53325A01 ∧ ReadAnswers s 0x004 (if s.ie then 1 else 0) ∧ ReadAnswers s 0x00C 0 ∧
    ReadAnswers s 0x008 (statusWord s) ∧ ReadAnswers s 0x014 s.din ∧
    (∀ off, off % 4 = 0 → off ≤ 0xFFC →
      (off = 0x01C ∨ (0x040 ≤ off ∧ off < 0x100) ∨ (0x300 ≤ off ∧ off < 0x400) ∨
        (0x400 ≤ off ∧ off < 0x600 ∧ 0x44 ≤ (off - 0x400) % 0x80) ∨ 0x600 ≤ off) → ReadAnswers s off 0) ∧
    (∀ j : Fin 4, ReadAnswers s (0x020 + 4 * j.val) 0 ∧ ReadAnswers s (0x030 + 4 * j.val) s.iv[j.val]) ∧
    (s.inflight = false → ReadAnswers s 0x010 s.zout ∧ ReadAnswers s 0x018 s.dout ∧
      (∀ (i : GenReg) (j : Fin 8),
        ReadAnswers s (0x100 + 0x20 * i.val + 4 * j.val) ((s.gpr[i.val]).extractLsb' (224 - 32 * j.val) 32)) ∧
      ∀ i : PointReg,
      ReadAnswers s (0x440 + 0x80 * i.val) (if (s.pts[i.val]).inf then 1 else 0) ∧
      ∀ j : Fin 8, ReadAnswers s (0x400 + 0x80 * i.val + 4 * j.val) ((s.pts[i.val]).x.extractLsb' (224 - 32 * j.val) 32) ∧
        ReadAnswers s (0x420 + 0x80 * i.val + 4 * j.val) ((s.pts[i.val]).y.extractLsb' (224 - 32 * j.val) 32))

/-- With BUSY = 0 a write to DIN, KEY, IV or a word of R or P lands whole: the register holds the word, in its place, a write of
an inf word storing bit 0 alone, and the rest of the state, hidden state included, is as before (20_memory R74, R75, R80, R81). -/
def Obligations.DataWritesLandWhole : Prop :=
  ∀ (s : State) (v : Word), s.inflight = false →
    hostWrite s 0x014 4 v = .next { s with din := v } ∧
    (∀ j : Fin 4, hostWrite s (0x020 + 4 * j.val) 4 v = .next { s with key := s.key.set j.val v } ∧
      hostWrite s (0x030 + 4 * j.val) 4 v = .next { s with iv := s.iv.set j.val v }) ∧
    (∀ (i : GenReg) (j : Fin 8), ∃ x : U256,
      hostWrite s (0x100 + 0x20 * i.val + 4 * j.val) 4 v = .next { s with gpr := s.gpr.set i.val x } ∧
      ∀ k : Fin 8, wordGet x k = if k = j then v else wordGet s.gpr[i.val] k) ∧
    ∀ i : PointReg, let p := s.pts[i.val]
      hostWrite s (0x440 + 0x80 * i.val) 4 v = .next { s with pts := s.pts.set i.val { p with inf := v.getLsbD 0 } } ∧
      ∀ j : Fin 8, ∃ x y : U256,
        hostWrite s (0x400 + 0x80 * i.val + 4 * j.val) 4 v = .next { s with pts := s.pts.set i.val { p with x := x } } ∧
        hostWrite s (0x420 + 0x80 * i.val + 4 * j.val) 4 v = .next { s with pts := s.pts.set i.val { p with y := y } } ∧
        ∀ k : Fin 8, wordGet x k = (if k = j then v else wordGet p.x k) ∧ wordGet y k = (if k = j then v else wordGet p.y k)

/-- With BUSY = 0, writing a word of R[i] and reading the eight words of R[i] back gives the written word at its offset and
the old words at the seven others (20_memory R75, R82). -/
def Obligations.GeneralRegisterWordsReadBack : Prop :=
  ∀ (s : State) (i : GenReg) (j k : Fin 8) (v : Word), s.inflight = false →
    ∃ t u, hostWrite s (0x100 + 0x20 * i.val + 4 * j.val) 4 v = .next t ∧
      hostRead t (0x100 + 0x20 * i.val + 4 * k.val) 4 = .next u ∧
      u.responses = (0x100 + 0x20 * i.val + 4 * k.val,
        if k = j then v else (s.gpr[i.val]).extractLsb' (224 - 32 * k.val) 32) :: s.responses

/-- With BUSY = 0, a write to DIN, KEY, IV, R or P changes only the word written: every other word of the window reads as
before, STATUS and CTRL among them; every KEY word, which cannot be read, but the one written holds what it held; and nothing
of the state but R, P, KEY, IV and DIN, hidden state included, changes at all (20_memory R80). -/
def Obligations.DataWritesChangeOnlyTheirWord : Prop :=
  ∀ (s t : State) (off : Nat) (v : Word), s.inflight = false →
    (off = 0x014 ∨ 0x020 ≤ off) → hostWrite s off 4 v = .next t →
    (∀ reg, reg ≠ windowAt off → peek t reg = peek s reg) ∧
    (∀ j : Fin 4, windowAt off ≠ .key j → t.key[j.val] = s.key[j.val]) ∧
    t = { s with gpr := t.gpr, pts := t.pts, key := t.key, iv := t.iv, din := t.din }

/-- Reading words 0 to 7 spells the register, most significant word first: V is the sum of word j times 2^(224-32j)
(20_memory R75, 30_encoding R119). -/
def Obligations.EightWordsSpellTheRegister : Prop :=
  ∀ (s : State) (i : GenReg),
    (s.gpr[i.val]).toNat = ∑ j : Fin 8, (peek s (.gpr i j)).toNat * 2 ^ (224 - 32 * j.val)

/-- The accesses of the block are the aligned 32-bit words in [0x000, 0xFFC]; a host access of another size, misaligned, or
above 0xFFC is refused (20_memory R71). -/
def Obligations.OnlyWordAccessesReachTheBlock : Prop :=
  ∀ (s : State) (off size : Nat) (v : Word),
    if size = 4 ∧ off % 4 = 0 ∧ off ≤ 0xFFC then
      (∃ t, hostRead s off size = .next t) ∧ ∃ t, hostWrite s off size v = .next t
    else ∃ r, hostRead s off size = .refused r ∧ hostWrite s off size v = .refused r

/-- The STATUS word as read, at any time: BUSY, DONE, ERR, WERR, ZRDY, ONC, PKV in bits 0 to 6, LASTERR in bits 11:8, and 0
in bits 7 and 31:12 (10_state R35, 20_memory R74, R84). -/
def Obligations.StatusReadsItsFields : Prop :=
  ∀ s : State, ∃ v, hostRead s 0x008 4 = .next { s with responses := (0x008, v) :: s.responses } ∧
    v.getLsbD 0 = s.inflight ∧ v.getLsbD 1 = s.done ∧ v.getLsbD 2 = s.err ∧ v.getLsbD 3 = s.werr ∧
    v.getLsbD 4 = s.zrdy ∧ v.getLsbD 5 = s.onc ∧ v.getLsbD 6 = s.pkv ∧ v.getLsbD 7 = false ∧
    v.extractLsb' 8 4 = s.lastErr ∧ ∀ b, 12 ≤ b → v.getLsbD b = false

/-- A host write to STATUS clears DONE, ERR and WERR where bits 1, 2 and 3 are 1, ignores every other bit, and acts while
BUSY = 1 too; clearing DONE drops IRQ (10_state R35). -/
def Obligations.StatusWriteClearsNamedBits : Prop :=
  ∀ (s : State) (v : Word), ∃ t, hostWrite s 0x008 4 v = .next t ∧
    t = { s with
      done := if v.getLsbD 1 = true then false else s.done
      err := if v.getLsbD 2 = true then false else s.err
      werr := if v.getLsbD 3 = true then false else s.werr } ∧
    (v.getLsbD 1 = true → t.irq = false)

/-- CTRL reads IE in bit 0 and 0 elsewhere; a host write to it, busy or not: with bit 1 the reset, whatever bit 0 is;
otherwise IE takes bit 0 and nothing else changes, WERR included (10_state R34). -/
def Obligations.CtrlReadsAndWritesIe : Prop :=
  ∀ (s : State) (v : Word), peek s (windowAt 0x004) = (if s.ie then 1 else 0) ∧ ∃ t, hostWrite s 0x004 4 v = .next t ∧
    if v.getLsbD 1 = true then t = s.blockReset ∧ t.ie = false else t = { s with ie := v.getLsbD 0 }

/-- IRQ is IE and DONE: a CTRL write masks or unmasks it at once and leaves DONE; a STATUS write with bit 1, an acceptance
and a reset clear it; a completion raises it when IE = 1 (60_exceptions R311, R310). -/
def Obligations.IrqFollowsEnableAndDone : Prop :=
  ∀ (s t : State) (v : Word), s.irq = (s.ie && s.done) ∧
    (v.getLsbD 1 = false → hostWrite s 0x004 4 v = .next t → t.done = s.done ∧ t.irq = (v.getLsbD 0 && s.done)) ∧
    (v.getLsbD 1 = true → hostWrite s 0x004 4 v = .next t ∨ hostWrite s 0x008 4 v = .next t → t.irq = false) ∧
    s.blockReset.irq = false ∧ (s.inflight = false → hostWrite s 0x00C 4 v = .next t → t.irq = false) ∧
    (∀ i, exec i s = .next t → t.irq = s.ie)

/-- A reset from either source, in one step, leaves the block at its reset values (CMDL, unspecified there, at any word), a
command in flight abandoned with none of its writes and no bookkeeping, and idle; only what lies outside the block is kept
(70_reset R351, R352; that a reset is an input of the list is logs 2 and 9). -/
def Obligations.ResetFromEitherSource : Prop :=
  ∀ (s : State) (rest : List Input),
    (s.inputs = .hardReset :: rest ∨ ∃ v : Word, v.getLsbD 1 = true ∧ s.inputs = .memWrite 0x004 4 v :: rest) →
    ∃ t c, step s = .next t ∧
      t = { State.reset with cmdl := c, inputs := rest, responses := s.responses, draws := s.draws } ∧
      t.irq = false ∧ step { t with inputs := [] } = .next { t with inputs := [] }

/-- The reset values of 10_state R56 (CMDL, unspecified there, is left out; the model's own fields too). -/
def Obligations.ResetValues : Prop :=
  let s := State.reset
  (∀ i : GenReg, s.gpr[i.val] = 0) ∧ (∀ i : PointReg, s.pts[i.val] = ⟨0, 0, true⟩) ∧
  peek s .id = 0x53325A01 ∧ peek s .ctrl = 0 ∧ peek s .status = 0 ∧ s.inflight = false ∧
  (∀ j : Fin 4, s.key[j.val] = 0 ∧ s.iv[j.val] = 0) ∧ s.din = 0 ∧ s.dout = 0 ∧ s.zout = 0 ∧
  (∀ i : Fin 16, s.zuc.cells[i.val] = 0) ∧ s.zuc.r1 = 0 ∧ s.zuc.r2 = 0 ∧ s.zrdy = false ∧ s.irq = false

/-! ### Invariants and rules of the whole machine -/

/-- Every step keeps: while ZRDY = 1 no LFSR cell is 0 (42_zuc R235). -/
def Obligations.StepKeepsCellsNonZero : Prop :=
  ∀ s t : State, CellsNonZero s → step s = .next t → CellsNonZero t

/-- Every step keeps: LASTERR holds one of the codes 0 to 5 (60_exceptions R302). -/
def Obligations.StepKeepsLastErrDefined : Prop :=
  ∀ s t : State, LastErrDefined s → step s = .next t → LastErrDefined t

/-- Every step keeps: BUSY and DONE are never both 1 (60_exceptions R300, R301). -/
def Obligations.StepKeepsNotBusyAndDone : Prop :=
  ∀ s t : State, NotBusyAndDone s → step s = .next t → NotBusyAndDone t

/-- Every step keeps: with ZRDY = 0 the ZUC state, ZOUT and DOUT are at their reset values (10_state R40). -/
def Obligations.StepKeepsZucClearUntilReady : Prop :=
  ∀ s t : State, ZucClearUntilReady s → step s = .next t → ZucClearUntilReady t

/-- The reset state meets the four invariants (10_state R56). -/
def Obligations.ResetMeetsTheInvariants : Prop :=
  CellsNonZero State.reset ∧ LastErrDefined State.reset ∧ NotBusyAndDone State.reset ∧ ZucClearUntilReady State.reset

/-- Only the completion of ZINIT, ZGEN or ZXOR, or a reset, changes S, R1, R2 or ZRDY: the step is exec of that command, which
clears BUSY and sets DONE, so no write of KEY, IV or anything else does it (10_state R30, R40, 42_zuc R234). -/
def Obligations.OnlyZucCommandsChangeTheZucState : Prop :=
  ∀ s t : State, step s = .next t → (t.zuc ≠ s.zuc ∨ t.zrdy ≠ s.zrdy) →
    (s.inflight = true ∧ t.inflight = false ∧ t.done = true ∧
      ∃ i, decode s.cmdl = .ok i ∧ (i = .zinit ∨ i = .zgen ∨ ∃ n, i = .zxor n) ∧ exec i s.dropInput = .next t) ∨
    IsReset s t

/-- Only the completion of PCHK, or a reset, changes ONC or PKV: the step is exec of a PCHK, which clears BUSY and sets DONE
(10_state R41). -/
def Obligations.OnlyPchkChangesTheCheckFlags : Prop :=
  ∀ s t : State, step s = .next t → (t.onc ≠ s.onc ∨ t.pkv ≠ s.pkv) →
    (s.inflight = true ∧ t.inflight = false ∧ t.done = true ∧
      ∃ ps, decode s.cmdl = .ok (.pchk ps) ∧ exec (.pchk ps) s.dropInput = .next t) ∨
    IsReset s t

/-- Only a completion, which clears BUSY and sets DONE, or a reset, changes LASTERR; and only a completion with a code other
than E_OK sets ERR (10_state R42, R38). -/
def Obligations.OnlyCompletionChangesLastErr : Prop :=
  ∀ s t : State, step s = .next t →
    (t.lastErr ≠ s.lastErr → (s.inflight = true ∧ t.inflight = false ∧ t.done = true) ∨
      IsReset s t) ∧
    (s.err = false → t.err = true → s.inflight = true ∧ t.inflight = false ∧ t.lastErr ≠ 0)

/-- The key and the ZUC state cannot be read back: two states that differ only in KEY, S, R1, R2 and CMDL answer every read
alike (60_exceptions R314, 10_state R45, R50). For a read of R, P, ZOUT or DOUT while BUSY = 1 that is the model's choice and
no rule: R84 puts such a draw under no law, and the model takes it from the count of draws alone (log 4). -/
def Obligations.SecretsCannotBeReadBack : Prop :=
  ∀ (s : State) (key : Vector Word 4) (zuc : ZucState) (cmdl : Word) (off size : Nat),
    let s' := { s with key := key, zuc := zuc, cmdl := cmdl }
    (∀ t, hostRead s off size = .next t → ∃ t', hostRead s' off size = .next t' ∧ t'.responses = t.responses) ∧
    (∀ r, hostRead s off size = .refused r → hostRead s' off size = .refused r)
end

