-- ==== Sys2Proof/Laws/Bits.lean ====
section
/-! SUPPORT. The bits of a scalar, most significant first, and exponentiation by them. -/

namespace Sys2Proof.Machine

/-- The number a list of bits, most significant first, extends `m` to. -/
def bitsValue : List Bool → Nat → Nat
  | [], m => m
  | b :: bs, m => bitsValue bs (2 * m + b.toNat)

theorem bitsValue_bitsMsbFirst (w k m : Nat) :
    bitsValue (bitsMsbFirst w k) m = m * 2 ^ w + k % 2 ^ w := by
  induction w generalizing m with
  | zero => simp [bitsMsbFirst, bitsValue, Nat.mod_one]
  | succ w ih =>
    rw [bitsMsbFirst, bitsValue, ih, Nat.mod_pow_succ, Nat.toNat_testBit, Nat.pow_succ]
    ring

/-- The bits of a number below 2^w stand for that number. -/
theorem bitsValue_self {w k : Nat} (h : k < 2 ^ w) : bitsValue (bitsMsbFirst w k) 0 = k := by
  rw [bitsValue_bitsMsbFirst, Nat.mod_eq_of_lt h]; omega

theorem powBits_lt (base acc : Nat) (bits : List Bool) (h : acc < fieldPrime) :
    powBits base bits acc < fieldPrime := by
  induction bits generalizing acc with
  | nil => exact h
  | cons b bs ih =>
    refine ih _ ?_
    cases b <;> exact Nat.mod_lt _ (by decide)

/-- What exponentiation by bits computes, in any ring whose characteristic divides p. -/
theorem powBits_cast {R : Type*} [CommRing R] (hR : (fieldPrime : R) = 0) (base m : Nat) (bits : List Bool) (acc : Nat)
    (h : (acc : R) = (base : R) ^ m) : (powBits base bits acc : R) = (base : R) ^ bitsValue bits m := by
  have hmod : ∀ n : Nat, ((n % fieldPrime : Nat) : R) = n := fun n => by
    conv_rhs => rw [← Nat.mod_add_div n fieldPrime]
    push_cast
    rw [hR]; ring
  induction bits generalizing acc m with
  | nil => exact h
  | cons b bs ih =>
    refine ih _ _ ?_
    cases b <;> simp only [Bool.false_eq_true, if_false, if_true, hmod, Nat.cast_mul, h, Bool.toNat_true, Bool.toNat_false]
      <;> ring

end Sys2Proof.Machine
end

