-- ==== Sys2Proof/Laws/State.lean ====
section
/-! SUPPORT. One lemma for each field of the state under each named update, so that no later proof unfolds a record
update. -/

namespace Sys2Proof.Machine

variable (s : State)

@[simp] theorem State.setGpr_gpr (i : GenReg) (v : U256) : (s.setGpr i v).gpr = s.gpr.set i.val v := rfl
@[simp] theorem State.setGpr_pts (i : GenReg) (v : U256) : (s.setGpr i v).pts = s.pts := rfl
@[simp] theorem State.setGpr_ie (i : GenReg) (v : U256) : (s.setGpr i v).ie = s.ie := rfl
@[simp] theorem State.setGpr_done (i : GenReg) (v : U256) : (s.setGpr i v).done = s.done := rfl
@[simp] theorem State.setGpr_err (i : GenReg) (v : U256) : (s.setGpr i v).err = s.err := rfl
@[simp] theorem State.setGpr_werr (i : GenReg) (v : U256) : (s.setGpr i v).werr = s.werr := rfl
@[simp] theorem State.setGpr_zrdy (i : GenReg) (v : U256) : (s.setGpr i v).zrdy = s.zrdy := rfl
@[simp] theorem State.setGpr_onc (i : GenReg) (v : U256) : (s.setGpr i v).onc = s.onc := rfl
@[simp] theorem State.setGpr_pkv (i : GenReg) (v : U256) : (s.setGpr i v).pkv = s.pkv := rfl
@[simp] theorem State.setGpr_lastErr (i : GenReg) (v : U256) : (s.setGpr i v).lastErr = s.lastErr := rfl
@[simp] theorem State.setGpr_key (i : GenReg) (v : U256) : (s.setGpr i v).key = s.key := rfl
@[simp] theorem State.setGpr_iv (i : GenReg) (v : U256) : (s.setGpr i v).iv = s.iv := rfl
@[simp] theorem State.setGpr_din (i : GenReg) (v : U256) : (s.setGpr i v).din = s.din := rfl
@[simp] theorem State.setGpr_dout (i : GenReg) (v : U256) : (s.setGpr i v).dout = s.dout := rfl
@[simp] theorem State.setGpr_zout (i : GenReg) (v : U256) : (s.setGpr i v).zout = s.zout := rfl
@[simp] theorem State.setGpr_zuc (i : GenReg) (v : U256) : (s.setGpr i v).zuc = s.zuc := rfl
@[simp] theorem State.setGpr_cmdl (i : GenReg) (v : U256) : (s.setGpr i v).cmdl = s.cmdl := rfl
@[simp] theorem State.setGpr_inflight (i : GenReg) (v : U256) : (s.setGpr i v).inflight = s.inflight := rfl
@[simp] theorem State.setGpr_inputs (i : GenReg) (v : U256) : (s.setGpr i v).inputs = s.inputs := rfl
@[simp] theorem State.setGpr_responses (i : GenReg) (v : U256) : (s.setGpr i v).responses = s.responses := rfl
@[simp] theorem State.setGpr_draws (i : GenReg) (v : U256) : (s.setGpr i v).draws = s.draws := rfl

@[simp] theorem State.setPoint_gpr (i : PointReg) (t : PointTriple) : (s.setPoint i t).gpr = s.gpr := rfl
@[simp] theorem State.setPoint_pts (i : PointReg) (t : PointTriple) : (s.setPoint i t).pts = s.pts.set i.val t := rfl
@[simp] theorem State.setPoint_ie (i : PointReg) (t : PointTriple) : (s.setPoint i t).ie = s.ie := rfl
@[simp] theorem State.setPoint_done (i : PointReg) (t : PointTriple) : (s.setPoint i t).done = s.done := rfl
@[simp] theorem State.setPoint_err (i : PointReg) (t : PointTriple) : (s.setPoint i t).err = s.err := rfl
@[simp] theorem State.setPoint_werr (i : PointReg) (t : PointTriple) : (s.setPoint i t).werr = s.werr := rfl
@[simp] theorem State.setPoint_zrdy (i : PointReg) (t : PointTriple) : (s.setPoint i t).zrdy = s.zrdy := rfl
@[simp] theorem State.setPoint_onc (i : PointReg) (t : PointTriple) : (s.setPoint i t).onc = s.onc := rfl
@[simp] theorem State.setPoint_pkv (i : PointReg) (t : PointTriple) : (s.setPoint i t).pkv = s.pkv := rfl
@[simp] theorem State.setPoint_lastErr (i : PointReg) (t : PointTriple) : (s.setPoint i t).lastErr = s.lastErr := rfl
@[simp] theorem State.setPoint_key (i : PointReg) (t : PointTriple) : (s.setPoint i t).key = s.key := rfl
@[simp] theorem State.setPoint_iv (i : PointReg) (t : PointTriple) : (s.setPoint i t).iv = s.iv := rfl
@[simp] theorem State.setPoint_din (i : PointReg) (t : PointTriple) : (s.setPoint i t).din = s.din := rfl
@[simp] theorem State.setPoint_dout (i : PointReg) (t : PointTriple) : (s.setPoint i t).dout = s.dout := rfl
@[simp] theorem State.setPoint_zout (i : PointReg) (t : PointTriple) : (s.setPoint i t).zout = s.zout := rfl
@[simp] theorem State.setPoint_zuc (i : PointReg) (t : PointTriple) : (s.setPoint i t).zuc = s.zuc := rfl
@[simp] theorem State.setPoint_cmdl (i : PointReg) (t : PointTriple) : (s.setPoint i t).cmdl = s.cmdl := rfl
@[simp] theorem State.setPoint_inflight (i : PointReg) (t : PointTriple) : (s.setPoint i t).inflight = s.inflight := rfl
@[simp] theorem State.setPoint_inputs (i : PointReg) (t : PointTriple) : (s.setPoint i t).inputs = s.inputs := rfl
@[simp] theorem State.setPoint_responses (i : PointReg) (t : PointTriple) : (s.setPoint i t).responses = s.responses := rfl
@[simp] theorem State.setPoint_draws (i : PointReg) (t : PointTriple) : (s.setPoint i t).draws = s.draws := rfl

@[simp] theorem State.setKey_gpr (j : Fin 4) (w : Word) : (s.setKey j w).gpr = s.gpr := rfl
@[simp] theorem State.setKey_pts (j : Fin 4) (w : Word) : (s.setKey j w).pts = s.pts := rfl
@[simp] theorem State.setKey_ie (j : Fin 4) (w : Word) : (s.setKey j w).ie = s.ie := rfl
@[simp] theorem State.setKey_done (j : Fin 4) (w : Word) : (s.setKey j w).done = s.done := rfl
@[simp] theorem State.setKey_err (j : Fin 4) (w : Word) : (s.setKey j w).err = s.err := rfl
@[simp] theorem State.setKey_werr (j : Fin 4) (w : Word) : (s.setKey j w).werr = s.werr := rfl
@[simp] theorem State.setKey_zrdy (j : Fin 4) (w : Word) : (s.setKey j w).zrdy = s.zrdy := rfl
@[simp] theorem State.setKey_onc (j : Fin 4) (w : Word) : (s.setKey j w).onc = s.onc := rfl
@[simp] theorem State.setKey_pkv (j : Fin 4) (w : Word) : (s.setKey j w).pkv = s.pkv := rfl
@[simp] theorem State.setKey_lastErr (j : Fin 4) (w : Word) : (s.setKey j w).lastErr = s.lastErr := rfl
@[simp] theorem State.setKey_key (j : Fin 4) (w : Word) : (s.setKey j w).key = s.key.set j.val w := rfl
@[simp] theorem State.setKey_iv (j : Fin 4) (w : Word) : (s.setKey j w).iv = s.iv := rfl
@[simp] theorem State.setKey_din (j : Fin 4) (w : Word) : (s.setKey j w).din = s.din := rfl
@[simp] theorem State.setKey_dout (j : Fin 4) (w : Word) : (s.setKey j w).dout = s.dout := rfl
@[simp] theorem State.setKey_zout (j : Fin 4) (w : Word) : (s.setKey j w).zout = s.zout := rfl
@[simp] theorem State.setKey_zuc (j : Fin 4) (w : Word) : (s.setKey j w).zuc = s.zuc := rfl
@[simp] theorem State.setKey_cmdl (j : Fin 4) (w : Word) : (s.setKey j w).cmdl = s.cmdl := rfl
@[simp] theorem State.setKey_inflight (j : Fin 4) (w : Word) : (s.setKey j w).inflight = s.inflight := rfl
@[simp] theorem State.setKey_inputs (j : Fin 4) (w : Word) : (s.setKey j w).inputs = s.inputs := rfl
@[simp] theorem State.setKey_responses (j : Fin 4) (w : Word) : (s.setKey j w).responses = s.responses := rfl
@[simp] theorem State.setKey_draws (j : Fin 4) (w : Word) : (s.setKey j w).draws = s.draws := rfl

@[simp] theorem State.setIv_gpr (j : Fin 4) (w : Word) : (s.setIv j w).gpr = s.gpr := rfl
@[simp] theorem State.setIv_pts (j : Fin 4) (w : Word) : (s.setIv j w).pts = s.pts := rfl
@[simp] theorem State.setIv_ie (j : Fin 4) (w : Word) : (s.setIv j w).ie = s.ie := rfl
@[simp] theorem State.setIv_done (j : Fin 4) (w : Word) : (s.setIv j w).done = s.done := rfl
@[simp] theorem State.setIv_err (j : Fin 4) (w : Word) : (s.setIv j w).err = s.err := rfl
@[simp] theorem State.setIv_werr (j : Fin 4) (w : Word) : (s.setIv j w).werr = s.werr := rfl
@[simp] theorem State.setIv_zrdy (j : Fin 4) (w : Word) : (s.setIv j w).zrdy = s.zrdy := rfl
@[simp] theorem State.setIv_onc (j : Fin 4) (w : Word) : (s.setIv j w).onc = s.onc := rfl
@[simp] theorem State.setIv_pkv (j : Fin 4) (w : Word) : (s.setIv j w).pkv = s.pkv := rfl
@[simp] theorem State.setIv_lastErr (j : Fin 4) (w : Word) : (s.setIv j w).lastErr = s.lastErr := rfl
@[simp] theorem State.setIv_key (j : Fin 4) (w : Word) : (s.setIv j w).key = s.key := rfl
@[simp] theorem State.setIv_iv (j : Fin 4) (w : Word) : (s.setIv j w).iv = s.iv.set j.val w := rfl
@[simp] theorem State.setIv_din (j : Fin 4) (w : Word) : (s.setIv j w).din = s.din := rfl
@[simp] theorem State.setIv_dout (j : Fin 4) (w : Word) : (s.setIv j w).dout = s.dout := rfl
@[simp] theorem State.setIv_zout (j : Fin 4) (w : Word) : (s.setIv j w).zout = s.zout := rfl
@[simp] theorem State.setIv_zuc (j : Fin 4) (w : Word) : (s.setIv j w).zuc = s.zuc := rfl
@[simp] theorem State.setIv_cmdl (j : Fin 4) (w : Word) : (s.setIv j w).cmdl = s.cmdl := rfl
@[simp] theorem State.setIv_inflight (j : Fin 4) (w : Word) : (s.setIv j w).inflight = s.inflight := rfl
@[simp] theorem State.setIv_inputs (j : Fin 4) (w : Word) : (s.setIv j w).inputs = s.inputs := rfl
@[simp] theorem State.setIv_responses (j : Fin 4) (w : Word) : (s.setIv j w).responses = s.responses := rfl
@[simp] theorem State.setIv_draws (j : Fin 4) (w : Word) : (s.setIv j w).draws = s.draws := rfl

@[simp] theorem State.setDin_gpr (w : Word) : (s.setDin w).gpr = s.gpr := rfl
@[simp] theorem State.setDin_pts (w : Word) : (s.setDin w).pts = s.pts := rfl
@[simp] theorem State.setDin_ie (w : Word) : (s.setDin w).ie = s.ie := rfl
@[simp] theorem State.setDin_done (w : Word) : (s.setDin w).done = s.done := rfl
@[simp] theorem State.setDin_err (w : Word) : (s.setDin w).err = s.err := rfl
@[simp] theorem State.setDin_werr (w : Word) : (s.setDin w).werr = s.werr := rfl
@[simp] theorem State.setDin_zrdy (w : Word) : (s.setDin w).zrdy = s.zrdy := rfl
@[simp] theorem State.setDin_onc (w : Word) : (s.setDin w).onc = s.onc := rfl
@[simp] theorem State.setDin_pkv (w : Word) : (s.setDin w).pkv = s.pkv := rfl
@[simp] theorem State.setDin_lastErr (w : Word) : (s.setDin w).lastErr = s.lastErr := rfl
@[simp] theorem State.setDin_key (w : Word) : (s.setDin w).key = s.key := rfl
@[simp] theorem State.setDin_iv (w : Word) : (s.setDin w).iv = s.iv := rfl
@[simp] theorem State.setDin_din (w : Word) : (s.setDin w).din = w := rfl
@[simp] theorem State.setDin_dout (w : Word) : (s.setDin w).dout = s.dout := rfl
@[simp] theorem State.setDin_zout (w : Word) : (s.setDin w).zout = s.zout := rfl
@[simp] theorem State.setDin_zuc (w : Word) : (s.setDin w).zuc = s.zuc := rfl
@[simp] theorem State.setDin_cmdl (w : Word) : (s.setDin w).cmdl = s.cmdl := rfl
@[simp] theorem State.setDin_inflight (w : Word) : (s.setDin w).inflight = s.inflight := rfl
@[simp] theorem State.setDin_inputs (w : Word) : (s.setDin w).inputs = s.inputs := rfl
@[simp] theorem State.setDin_responses (w : Word) : (s.setDin w).responses = s.responses := rfl
@[simp] theorem State.setDin_draws (w : Word) : (s.setDin w).draws = s.draws := rfl

@[simp] theorem State.setIe_gpr (b : Bool) : (s.setIe b).gpr = s.gpr := rfl
@[simp] theorem State.setIe_pts (b : Bool) : (s.setIe b).pts = s.pts := rfl
@[simp] theorem State.setIe_ie (b : Bool) : (s.setIe b).ie = b := rfl
@[simp] theorem State.setIe_done (b : Bool) : (s.setIe b).done = s.done := rfl
@[simp] theorem State.setIe_err (b : Bool) : (s.setIe b).err = s.err := rfl
@[simp] theorem State.setIe_werr (b : Bool) : (s.setIe b).werr = s.werr := rfl
@[simp] theorem State.setIe_zrdy (b : Bool) : (s.setIe b).zrdy = s.zrdy := rfl
@[simp] theorem State.setIe_onc (b : Bool) : (s.setIe b).onc = s.onc := rfl
@[simp] theorem State.setIe_pkv (b : Bool) : (s.setIe b).pkv = s.pkv := rfl
@[simp] theorem State.setIe_lastErr (b : Bool) : (s.setIe b).lastErr = s.lastErr := rfl
@[simp] theorem State.setIe_key (b : Bool) : (s.setIe b).key = s.key := rfl
@[simp] theorem State.setIe_iv (b : Bool) : (s.setIe b).iv = s.iv := rfl
@[simp] theorem State.setIe_din (b : Bool) : (s.setIe b).din = s.din := rfl
@[simp] theorem State.setIe_dout (b : Bool) : (s.setIe b).dout = s.dout := rfl
@[simp] theorem State.setIe_zout (b : Bool) : (s.setIe b).zout = s.zout := rfl
@[simp] theorem State.setIe_zuc (b : Bool) : (s.setIe b).zuc = s.zuc := rfl
@[simp] theorem State.setIe_cmdl (b : Bool) : (s.setIe b).cmdl = s.cmdl := rfl
@[simp] theorem State.setIe_inflight (b : Bool) : (s.setIe b).inflight = s.inflight := rfl
@[simp] theorem State.setIe_inputs (b : Bool) : (s.setIe b).inputs = s.inputs := rfl
@[simp] theorem State.setIe_responses (b : Bool) : (s.setIe b).responses = s.responses := rfl
@[simp] theorem State.setIe_draws (b : Bool) : (s.setIe b).draws = s.draws := rfl

@[simp] theorem State.markWerr_gpr : s.markWerr.gpr = s.gpr := rfl
@[simp] theorem State.markWerr_pts : s.markWerr.pts = s.pts := rfl
@[simp] theorem State.markWerr_ie : s.markWerr.ie = s.ie := rfl
@[simp] theorem State.markWerr_done : s.markWerr.done = s.done := rfl
@[simp] theorem State.markWerr_err : s.markWerr.err = s.err := rfl
@[simp] theorem State.markWerr_werr : s.markWerr.werr = true := rfl
@[simp] theorem State.markWerr_zrdy : s.markWerr.zrdy = s.zrdy := rfl
@[simp] theorem State.markWerr_onc : s.markWerr.onc = s.onc := rfl
@[simp] theorem State.markWerr_pkv : s.markWerr.pkv = s.pkv := rfl
@[simp] theorem State.markWerr_lastErr : s.markWerr.lastErr = s.lastErr := rfl
@[simp] theorem State.markWerr_key : s.markWerr.key = s.key := rfl
@[simp] theorem State.markWerr_iv : s.markWerr.iv = s.iv := rfl
@[simp] theorem State.markWerr_din : s.markWerr.din = s.din := rfl
@[simp] theorem State.markWerr_dout : s.markWerr.dout = s.dout := rfl
@[simp] theorem State.markWerr_zout : s.markWerr.zout = s.zout := rfl
@[simp] theorem State.markWerr_zuc : s.markWerr.zuc = s.zuc := rfl
@[simp] theorem State.markWerr_cmdl : s.markWerr.cmdl = s.cmdl := rfl
@[simp] theorem State.markWerr_inflight : s.markWerr.inflight = s.inflight := rfl
@[simp] theorem State.markWerr_inputs : s.markWerr.inputs = s.inputs := rfl
@[simp] theorem State.markWerr_responses : s.markWerr.responses = s.responses := rfl
@[simp] theorem State.markWerr_draws : s.markWerr.draws = s.draws := rfl

@[simp] theorem State.setZucReady_gpr (z : ZucState) : (s.setZucReady z).gpr = s.gpr := rfl
@[simp] theorem State.setZucReady_pts (z : ZucState) : (s.setZucReady z).pts = s.pts := rfl
@[simp] theorem State.setZucReady_ie (z : ZucState) : (s.setZucReady z).ie = s.ie := rfl
@[simp] theorem State.setZucReady_done (z : ZucState) : (s.setZucReady z).done = s.done := rfl
@[simp] theorem State.setZucReady_err (z : ZucState) : (s.setZucReady z).err = s.err := rfl
@[simp] theorem State.setZucReady_werr (z : ZucState) : (s.setZucReady z).werr = s.werr := rfl
@[simp] theorem State.setZucReady_zrdy (z : ZucState) : (s.setZucReady z).zrdy = true := rfl
@[simp] theorem State.setZucReady_onc (z : ZucState) : (s.setZucReady z).onc = s.onc := rfl
@[simp] theorem State.setZucReady_pkv (z : ZucState) : (s.setZucReady z).pkv = s.pkv := rfl
@[simp] theorem State.setZucReady_lastErr (z : ZucState) : (s.setZucReady z).lastErr = s.lastErr := rfl
@[simp] theorem State.setZucReady_key (z : ZucState) : (s.setZucReady z).key = s.key := rfl
@[simp] theorem State.setZucReady_iv (z : ZucState) : (s.setZucReady z).iv = s.iv := rfl
@[simp] theorem State.setZucReady_din (z : ZucState) : (s.setZucReady z).din = s.din := rfl
@[simp] theorem State.setZucReady_dout (z : ZucState) : (s.setZucReady z).dout = s.dout := rfl
@[simp] theorem State.setZucReady_zout (z : ZucState) : (s.setZucReady z).zout = s.zout := rfl
@[simp] theorem State.setZucReady_zuc (z : ZucState) : (s.setZucReady z).zuc = z := rfl
@[simp] theorem State.setZucReady_cmdl (z : ZucState) : (s.setZucReady z).cmdl = s.cmdl := rfl
@[simp] theorem State.setZucReady_inflight (z : ZucState) : (s.setZucReady z).inflight = s.inflight := rfl
@[simp] theorem State.setZucReady_inputs (z : ZucState) : (s.setZucReady z).inputs = s.inputs := rfl
@[simp] theorem State.setZucReady_responses (z : ZucState) : (s.setZucReady z).responses = s.responses := rfl
@[simp] theorem State.setZucReady_draws (z : ZucState) : (s.setZucReady z).draws = s.draws := rfl

@[simp] theorem State.setZout_gpr (w : Word) (z : ZucState) : (s.setZout w z).gpr = s.gpr := rfl
@[simp] theorem State.setZout_pts (w : Word) (z : ZucState) : (s.setZout w z).pts = s.pts := rfl
@[simp] theorem State.setZout_ie (w : Word) (z : ZucState) : (s.setZout w z).ie = s.ie := rfl
@[simp] theorem State.setZout_done (w : Word) (z : ZucState) : (s.setZout w z).done = s.done := rfl
@[simp] theorem State.setZout_err (w : Word) (z : ZucState) : (s.setZout w z).err = s.err := rfl
@[simp] theorem State.setZout_werr (w : Word) (z : ZucState) : (s.setZout w z).werr = s.werr := rfl
@[simp] theorem State.setZout_zrdy (w : Word) (z : ZucState) : (s.setZout w z).zrdy = s.zrdy := rfl
@[simp] theorem State.setZout_onc (w : Word) (z : ZucState) : (s.setZout w z).onc = s.onc := rfl
@[simp] theorem State.setZout_pkv (w : Word) (z : ZucState) : (s.setZout w z).pkv = s.pkv := rfl
@[simp] theorem State.setZout_lastErr (w : Word) (z : ZucState) : (s.setZout w z).lastErr = s.lastErr := rfl
@[simp] theorem State.setZout_key (w : Word) (z : ZucState) : (s.setZout w z).key = s.key := rfl
@[simp] theorem State.setZout_iv (w : Word) (z : ZucState) : (s.setZout w z).iv = s.iv := rfl
@[simp] theorem State.setZout_din (w : Word) (z : ZucState) : (s.setZout w z).din = s.din := rfl
@[simp] theorem State.setZout_dout (w : Word) (z : ZucState) : (s.setZout w z).dout = s.dout := rfl
@[simp] theorem State.setZout_zout (w : Word) (z : ZucState) : (s.setZout w z).zout = w := rfl
@[simp] theorem State.setZout_zuc (w : Word) (z : ZucState) : (s.setZout w z).zuc = z := rfl
@[simp] theorem State.setZout_cmdl (w : Word) (z : ZucState) : (s.setZout w z).cmdl = s.cmdl := rfl
@[simp] theorem State.setZout_inflight (w : Word) (z : ZucState) : (s.setZout w z).inflight = s.inflight := rfl
@[simp] theorem State.setZout_inputs (w : Word) (z : ZucState) : (s.setZout w z).inputs = s.inputs := rfl
@[simp] theorem State.setZout_responses (w : Word) (z : ZucState) : (s.setZout w z).responses = s.responses := rfl
@[simp] theorem State.setZout_draws (w : Word) (z : ZucState) : (s.setZout w z).draws = s.draws := rfl

@[simp] theorem State.setDout_gpr (w : Word) (z : ZucState) : (s.setDout w z).gpr = s.gpr := rfl
@[simp] theorem State.setDout_pts (w : Word) (z : ZucState) : (s.setDout w z).pts = s.pts := rfl
@[simp] theorem State.setDout_ie (w : Word) (z : ZucState) : (s.setDout w z).ie = s.ie := rfl
@[simp] theorem State.setDout_done (w : Word) (z : ZucState) : (s.setDout w z).done = s.done := rfl
@[simp] theorem State.setDout_err (w : Word) (z : ZucState) : (s.setDout w z).err = s.err := rfl
@[simp] theorem State.setDout_werr (w : Word) (z : ZucState) : (s.setDout w z).werr = s.werr := rfl
@[simp] theorem State.setDout_zrdy (w : Word) (z : ZucState) : (s.setDout w z).zrdy = s.zrdy := rfl
@[simp] theorem State.setDout_onc (w : Word) (z : ZucState) : (s.setDout w z).onc = s.onc := rfl
@[simp] theorem State.setDout_pkv (w : Word) (z : ZucState) : (s.setDout w z).pkv = s.pkv := rfl
@[simp] theorem State.setDout_lastErr (w : Word) (z : ZucState) : (s.setDout w z).lastErr = s.lastErr := rfl
@[simp] theorem State.setDout_key (w : Word) (z : ZucState) : (s.setDout w z).key = s.key := rfl
@[simp] theorem State.setDout_iv (w : Word) (z : ZucState) : (s.setDout w z).iv = s.iv := rfl
@[simp] theorem State.setDout_din (w : Word) (z : ZucState) : (s.setDout w z).din = s.din := rfl
@[simp] theorem State.setDout_dout (w : Word) (z : ZucState) : (s.setDout w z).dout = w := rfl
@[simp] theorem State.setDout_zout (w : Word) (z : ZucState) : (s.setDout w z).zout = s.zout := rfl
@[simp] theorem State.setDout_zuc (w : Word) (z : ZucState) : (s.setDout w z).zuc = z := rfl
@[simp] theorem State.setDout_cmdl (w : Word) (z : ZucState) : (s.setDout w z).cmdl = s.cmdl := rfl
@[simp] theorem State.setDout_inflight (w : Word) (z : ZucState) : (s.setDout w z).inflight = s.inflight := rfl
@[simp] theorem State.setDout_inputs (w : Word) (z : ZucState) : (s.setDout w z).inputs = s.inputs := rfl
@[simp] theorem State.setDout_responses (w : Word) (z : ZucState) : (s.setDout w z).responses = s.responses := rfl
@[simp] theorem State.setDout_draws (w : Word) (z : ZucState) : (s.setDout w z).draws = s.draws := rfl

@[simp] theorem State.setCheck_gpr (o k : Bool) : (s.setCheck o k).gpr = s.gpr := rfl
@[simp] theorem State.setCheck_pts (o k : Bool) : (s.setCheck o k).pts = s.pts := rfl
@[simp] theorem State.setCheck_ie (o k : Bool) : (s.setCheck o k).ie = s.ie := rfl
@[simp] theorem State.setCheck_done (o k : Bool) : (s.setCheck o k).done = s.done := rfl
@[simp] theorem State.setCheck_err (o k : Bool) : (s.setCheck o k).err = s.err := rfl
@[simp] theorem State.setCheck_werr (o k : Bool) : (s.setCheck o k).werr = s.werr := rfl
@[simp] theorem State.setCheck_zrdy (o k : Bool) : (s.setCheck o k).zrdy = s.zrdy := rfl
@[simp] theorem State.setCheck_onc (o k : Bool) : (s.setCheck o k).onc = o := rfl
@[simp] theorem State.setCheck_pkv (o k : Bool) : (s.setCheck o k).pkv = k := rfl
@[simp] theorem State.setCheck_lastErr (o k : Bool) : (s.setCheck o k).lastErr = s.lastErr := rfl
@[simp] theorem State.setCheck_key (o k : Bool) : (s.setCheck o k).key = s.key := rfl
@[simp] theorem State.setCheck_iv (o k : Bool) : (s.setCheck o k).iv = s.iv := rfl
@[simp] theorem State.setCheck_din (o k : Bool) : (s.setCheck o k).din = s.din := rfl
@[simp] theorem State.setCheck_dout (o k : Bool) : (s.setCheck o k).dout = s.dout := rfl
@[simp] theorem State.setCheck_zout (o k : Bool) : (s.setCheck o k).zout = s.zout := rfl
@[simp] theorem State.setCheck_zuc (o k : Bool) : (s.setCheck o k).zuc = s.zuc := rfl
@[simp] theorem State.setCheck_cmdl (o k : Bool) : (s.setCheck o k).cmdl = s.cmdl := rfl
@[simp] theorem State.setCheck_inflight (o k : Bool) : (s.setCheck o k).inflight = s.inflight := rfl
@[simp] theorem State.setCheck_inputs (o k : Bool) : (s.setCheck o k).inputs = s.inputs := rfl
@[simp] theorem State.setCheck_responses (o k : Bool) : (s.setCheck o k).responses = s.responses := rfl
@[simp] theorem State.setCheck_draws (o k : Bool) : (s.setCheck o k).draws = s.draws := rfl

@[simp] theorem State.accept_gpr (v : Word) : (s.accept v).gpr = s.gpr := rfl
@[simp] theorem State.accept_pts (v : Word) : (s.accept v).pts = s.pts := rfl
@[simp] theorem State.accept_ie (v : Word) : (s.accept v).ie = s.ie := rfl
@[simp] theorem State.accept_done (v : Word) : (s.accept v).done = false := rfl
@[simp] theorem State.accept_err (v : Word) : (s.accept v).err = s.err := rfl
@[simp] theorem State.accept_werr (v : Word) : (s.accept v).werr = s.werr := rfl
@[simp] theorem State.accept_zrdy (v : Word) : (s.accept v).zrdy = s.zrdy := rfl
@[simp] theorem State.accept_onc (v : Word) : (s.accept v).onc = s.onc := rfl
@[simp] theorem State.accept_pkv (v : Word) : (s.accept v).pkv = s.pkv := rfl
@[simp] theorem State.accept_lastErr (v : Word) : (s.accept v).lastErr = s.lastErr := rfl
@[simp] theorem State.accept_key (v : Word) : (s.accept v).key = s.key := rfl
@[simp] theorem State.accept_iv (v : Word) : (s.accept v).iv = s.iv := rfl
@[simp] theorem State.accept_din (v : Word) : (s.accept v).din = s.din := rfl
@[simp] theorem State.accept_dout (v : Word) : (s.accept v).dout = s.dout := rfl
@[simp] theorem State.accept_zout (v : Word) : (s.accept v).zout = s.zout := rfl
@[simp] theorem State.accept_zuc (v : Word) : (s.accept v).zuc = s.zuc := rfl
@[simp] theorem State.accept_cmdl (v : Word) : (s.accept v).cmdl = v := rfl
@[simp] theorem State.accept_inflight (v : Word) : (s.accept v).inflight = true := rfl
@[simp] theorem State.accept_inputs (v : Word) : (s.accept v).inputs = s.inputs := rfl
@[simp] theorem State.accept_responses (v : Word) : (s.accept v).responses = s.responses := rfl
@[simp] theorem State.accept_draws (v : Word) : (s.accept v).draws = s.draws := rfl

@[simp] theorem State.complete_gpr (c : Code) : (s.complete c).gpr = s.gpr := rfl
@[simp] theorem State.complete_pts (c : Code) : (s.complete c).pts = s.pts := rfl
@[simp] theorem State.complete_ie (c : Code) : (s.complete c).ie = s.ie := rfl
@[simp] theorem State.complete_done (c : Code) : (s.complete c).done = true := rfl
@[simp] theorem State.complete_err (c : Code) : (s.complete c).err = (s.err || c != .ok) := rfl
@[simp] theorem State.complete_werr (c : Code) : (s.complete c).werr = s.werr := rfl
@[simp] theorem State.complete_zrdy (c : Code) : (s.complete c).zrdy = s.zrdy := rfl
@[simp] theorem State.complete_onc (c : Code) : (s.complete c).onc = s.onc := rfl
@[simp] theorem State.complete_pkv (c : Code) : (s.complete c).pkv = s.pkv := rfl
@[simp] theorem State.complete_lastErr (c : Code) : (s.complete c).lastErr = c.bits := rfl
@[simp] theorem State.complete_key (c : Code) : (s.complete c).key = s.key := rfl
@[simp] theorem State.complete_iv (c : Code) : (s.complete c).iv = s.iv := rfl
@[simp] theorem State.complete_din (c : Code) : (s.complete c).din = s.din := rfl
@[simp] theorem State.complete_dout (c : Code) : (s.complete c).dout = s.dout := rfl
@[simp] theorem State.complete_zout (c : Code) : (s.complete c).zout = s.zout := rfl
@[simp] theorem State.complete_zuc (c : Code) : (s.complete c).zuc = s.zuc := rfl
@[simp] theorem State.complete_cmdl (c : Code) : (s.complete c).cmdl = s.cmdl := rfl
@[simp] theorem State.complete_inflight (c : Code) : (s.complete c).inflight = false := rfl
@[simp] theorem State.complete_inputs (c : Code) : (s.complete c).inputs = s.inputs := rfl
@[simp] theorem State.complete_responses (c : Code) : (s.complete c).responses = s.responses := rfl
@[simp] theorem State.complete_draws (c : Code) : (s.complete c).draws = s.draws := rfl

@[simp] theorem State.writeStatus_gpr (v : Word) : (s.writeStatus v).gpr = s.gpr := rfl
@[simp] theorem State.writeStatus_pts (v : Word) : (s.writeStatus v).pts = s.pts := rfl
@[simp] theorem State.writeStatus_ie (v : Word) : (s.writeStatus v).ie = s.ie := rfl
@[simp] theorem State.writeStatus_done (v : Word) : (s.writeStatus v).done = (s.done && !v.getLsbD 1) := rfl
@[simp] theorem State.writeStatus_err (v : Word) : (s.writeStatus v).err = (s.err && !v.getLsbD 2) := rfl
@[simp] theorem State.writeStatus_werr (v : Word) : (s.writeStatus v).werr = (s.werr && !v.getLsbD 3) := rfl
@[simp] theorem State.writeStatus_zrdy (v : Word) : (s.writeStatus v).zrdy = s.zrdy := rfl
@[simp] theorem State.writeStatus_onc (v : Word) : (s.writeStatus v).onc = s.onc := rfl
@[simp] theorem State.writeStatus_pkv (v : Word) : (s.writeStatus v).pkv = s.pkv := rfl
@[simp] theorem State.writeStatus_lastErr (v : Word) : (s.writeStatus v).lastErr = s.lastErr := rfl
@[simp] theorem State.writeStatus_key (v : Word) : (s.writeStatus v).key = s.key := rfl
@[simp] theorem State.writeStatus_iv (v : Word) : (s.writeStatus v).iv = s.iv := rfl
@[simp] theorem State.writeStatus_din (v : Word) : (s.writeStatus v).din = s.din := rfl
@[simp] theorem State.writeStatus_dout (v : Word) : (s.writeStatus v).dout = s.dout := rfl
@[simp] theorem State.writeStatus_zout (v : Word) : (s.writeStatus v).zout = s.zout := rfl
@[simp] theorem State.writeStatus_zuc (v : Word) : (s.writeStatus v).zuc = s.zuc := rfl
@[simp] theorem State.writeStatus_cmdl (v : Word) : (s.writeStatus v).cmdl = s.cmdl := rfl
@[simp] theorem State.writeStatus_inflight (v : Word) : (s.writeStatus v).inflight = s.inflight := rfl
@[simp] theorem State.writeStatus_inputs (v : Word) : (s.writeStatus v).inputs = s.inputs := rfl
@[simp] theorem State.writeStatus_responses (v : Word) : (s.writeStatus v).responses = s.responses := rfl
@[simp] theorem State.writeStatus_draws (v : Word) : (s.writeStatus v).draws = s.draws := rfl

@[simp] theorem State.blockReset_gpr : s.blockReset.gpr = State.reset.gpr := rfl
@[simp] theorem State.blockReset_pts : s.blockReset.pts = State.reset.pts := rfl
@[simp] theorem State.blockReset_ie : s.blockReset.ie = State.reset.ie := rfl
@[simp] theorem State.blockReset_done : s.blockReset.done = State.reset.done := rfl
@[simp] theorem State.blockReset_err : s.blockReset.err = State.reset.err := rfl
@[simp] theorem State.blockReset_werr : s.blockReset.werr = State.reset.werr := rfl
@[simp] theorem State.blockReset_zrdy : s.blockReset.zrdy = State.reset.zrdy := rfl
@[simp] theorem State.blockReset_onc : s.blockReset.onc = State.reset.onc := rfl
@[simp] theorem State.blockReset_pkv : s.blockReset.pkv = State.reset.pkv := rfl
@[simp] theorem State.blockReset_lastErr : s.blockReset.lastErr = State.reset.lastErr := rfl
@[simp] theorem State.blockReset_key : s.blockReset.key = State.reset.key := rfl
@[simp] theorem State.blockReset_iv : s.blockReset.iv = State.reset.iv := rfl
@[simp] theorem State.blockReset_din : s.blockReset.din = State.reset.din := rfl
@[simp] theorem State.blockReset_dout : s.blockReset.dout = State.reset.dout := rfl
@[simp] theorem State.blockReset_zout : s.blockReset.zout = State.reset.zout := rfl
@[simp] theorem State.blockReset_zuc : s.blockReset.zuc = State.reset.zuc := rfl
@[simp] theorem State.blockReset_cmdl : s.blockReset.cmdl = State.reset.cmdl := rfl
@[simp] theorem State.blockReset_inflight : s.blockReset.inflight = State.reset.inflight := rfl
@[simp] theorem State.blockReset_inputs : s.blockReset.inputs = s.inputs := rfl
@[simp] theorem State.blockReset_responses : s.blockReset.responses = s.responses := rfl
@[simp] theorem State.blockReset_draws : s.blockReset.draws = s.draws := rfl

@[simp] theorem State.dropInput_gpr : s.dropInput.gpr = s.gpr := rfl
@[simp] theorem State.dropInput_pts : s.dropInput.pts = s.pts := rfl
@[simp] theorem State.dropInput_ie : s.dropInput.ie = s.ie := rfl
@[simp] theorem State.dropInput_done : s.dropInput.done = s.done := rfl
@[simp] theorem State.dropInput_err : s.dropInput.err = s.err := rfl
@[simp] theorem State.dropInput_werr : s.dropInput.werr = s.werr := rfl
@[simp] theorem State.dropInput_zrdy : s.dropInput.zrdy = s.zrdy := rfl
@[simp] theorem State.dropInput_onc : s.dropInput.onc = s.onc := rfl
@[simp] theorem State.dropInput_pkv : s.dropInput.pkv = s.pkv := rfl
@[simp] theorem State.dropInput_lastErr : s.dropInput.lastErr = s.lastErr := rfl
@[simp] theorem State.dropInput_key : s.dropInput.key = s.key := rfl
@[simp] theorem State.dropInput_iv : s.dropInput.iv = s.iv := rfl
@[simp] theorem State.dropInput_din : s.dropInput.din = s.din := rfl
@[simp] theorem State.dropInput_dout : s.dropInput.dout = s.dout := rfl
@[simp] theorem State.dropInput_zout : s.dropInput.zout = s.zout := rfl
@[simp] theorem State.dropInput_zuc : s.dropInput.zuc = s.zuc := rfl
@[simp] theorem State.dropInput_cmdl : s.dropInput.cmdl = s.cmdl := rfl
@[simp] theorem State.dropInput_inflight : s.dropInput.inflight = s.inflight := rfl
@[simp] theorem State.dropInput_inputs : s.dropInput.inputs = s.inputs.tail := rfl
@[simp] theorem State.dropInput_responses : s.dropInput.responses = s.responses := rfl
@[simp] theorem State.dropInput_draws : s.dropInput.draws = s.draws := rfl

end Sys2Proof.Machine
end

