-- ==== Sys2Proof/Laws/Completion.lean ====
section
/-! SUPPORT. A completion in the terms of Safety: its bookkeeping, and what it leaves unchanged for each kind of write. -/

namespace Sys2Proof.Safety

open Sys2Proof.Machine

variable (s : State)

theorem completed_complete (c : Code) : Completed c.bits s (s.complete c) := by
  constructor <;> cases c <;> simp [State.complete, Code.bits]

theorem writesNothing_complete (c : Code) : WritesNothing s (s.complete c) := by
  constructor <;> (try constructor) <;> simp

/-- The bookkeeping of a completion after writes that left ERR alone. -/
theorem completed_after {u : State} (h : u.err = s.err) : Completed 0 s (u.complete .ok) := by
  constructor <;> simp [State.complete, Code.bits, h]

theorem writesOnlyGpr_complete (rd : GenReg) (v : U256) (c : Code) :
    WritesOnlyGpr rd s ((s.setGpr rd v).complete c) := by
  constructor <;> (try constructor) <;> simp
  intro r hr
  exact Vector.getElem_set_ne _ _ fun h => hr (Fin.ext h.symm)

theorem writesOnlyPoint_complete (pd : PointReg) (v : PointTriple) (c : Code) :
    WritesOnlyPoint pd s ((s.setPoint pd v).complete c) := by
  constructor <;> (try constructor) <;> simp
  intro r hr
  exact Vector.getElem_set_ne _ _ fun h => hr (Fin.ext h.symm)

theorem writesOnlyZuc_setZucReady (z : ZucState) (c : Code) : WritesOnlyZuc s ((s.setZucReady z).complete c) := by
  constructor <;> (try constructor) <;> simp

theorem writesOnlyZuc_setZout (w : Word) (z : ZucState) (c : Code) : WritesOnlyZuc s ((s.setZout w z).complete c) := by
  constructor <;> (try constructor) <;> simp

theorem writesOnlyZuc_setDout (w : Word) (z : ZucState) (c : Code) : WritesOnlyZuc s ((s.setDout w z).complete c) := by
  constructor <;> (try constructor) <;> simp

end Sys2Proof.Safety
end

