-- ==== Sys2Proof/Laws/Primality.lean ====
section
/-! SUPPORT. Two primality tests for numbers whose neighbour factors completely: Lucas's test from N - 1, and its companion
from N + 1 by an element of norm 1 in a quadratic extension. Both compute powers by bits. -/

namespace Sys2Proof.Laws.Primality

open Sys2Proof.Machine

/-- The product of a list of prime powers, given as (prime, exponent). -/
def prodPowers (fs : List (Nat × Nat)) : Nat :=
  (fs.map fun f => f.1 ^ f.2).prod

/-- A prime that divides a product of powers of primes is one of them. -/
theorem mem_of_dvd_prodPowers {q : Nat} (hq : q.Prime) (fs : List (Nat × Nat)) (hp : ∀ f ∈ fs, f.1.Prime)
    (hd : q ∣ prodPowers fs) : q ∈ fs.map Prod.fst := by
  induction fs with
  | nil => exact absurd (Nat.dvd_one.1 hd) hq.ne_one
  | cons f fs ih =>
    simp only [prodPowers, List.map_cons, List.prod_cons, hq.dvd_mul] at hd
    rcases hd with hd | hd
    · have : q = f.1 := (Nat.prime_dvd_prime_iff_eq hq (hp f (by simp))).1 (hq.dvd_of_dvd_pow hd)
      simp [this]
    · exact List.mem_cons_of_mem _ (ih (fun g hg => hp g (by simp [hg])) hd)

/-- Exponentiation modulo `m` by bits, most significant first. -/
def powMod (m base : Nat) : List Bool → Nat → Nat
  | [], acc => acc
  | b :: bs, acc => powMod m base bs (if b then acc * acc % m * base % m else acc * acc % m)

theorem powMod_cast (m base e : Nat) (bits : List Bool) (acc : Nat) (h : (acc : ZMod m) = (base : ZMod m) ^ e) :
    (powMod m base bits acc : ZMod m) = (base : ZMod m) ^ bitsValue bits e := by
  induction bits generalizing acc e with
  | nil => exact h
  | cons b bs ih =>
    refine ih _ _ ?_
    cases b <;> simp only [Bool.false_eq_true, if_false, if_true, ZMod.natCast_mod, Nat.cast_mul, h, Bool.toNat_true,
      Bool.toNat_false] <;> ring

/-- What Lucas's test computes: N - 1 is the product of the listed prime powers, and a has order N - 1. -/
def lucasCheck (N a : Nat) (fs : List (Nat × Nat)) : Bool :=
  decide (1 < N) && decide (N < 2 ^ 128) && N - 1 == prodPowers fs && powMod N a (bitsMsbFirst 128 (N - 1)) 1 % N == 1
    && fs.all fun f => powMod N a (bitsMsbFirst 128 ((N - 1) / f.1)) 1 % N != 1

/-- Lucas's test. -/
theorem prime_of_lucasCheck {N a : Nat} {fs : List (Nat × Nat)} (h : lucasCheck N a fs = true)
    (hp : ∀ f ∈ fs, f.1.Prime) : N.Prime := by
  simp only [lucasCheck, Bool.and_eq_true, decide_eq_true_eq, beq_iff_eq, List.all_eq_true, bne_iff_ne] at h
  obtain ⟨⟨⟨⟨h1, h2⟩, h3⟩, h4⟩, h5⟩ := h
  have key : ∀ e : Nat, e < 2 ^ 128 →
      (((a : Nat) : ZMod N) ^ e = 1 ↔ powMod N a (bitsMsbFirst 128 e) 1 % N = 1) := fun e he => by
    have h := powMod_cast N a 0 (bitsMsbFirst 128 e) 1 (by simp)
    rw [bitsValue_self he] at h
    have := ZMod.natCast_eq_natCast_iff' (powMod N a (bitsMsbFirst 128 e) 1) 1 N
    rw [Nat.mod_eq_of_lt h1, Nat.cast_one, h] at this
    exact this
  refine lucas_primality N ((a : Nat) : ZMod N) ((key _ (by omega)).2 h4) fun q hq hd => ?_
  rw [Ne, key _ (lt_of_le_of_lt (Nat.div_le_self _ _) (by omega))]
  rw [h3] at hd
  obtain ⟨f, hf, rfl⟩ := List.mem_map.1 (mem_of_dvd_prodPowers hq fs hp hd)
  exact h5 f hf

/-- The product of two elements x + y√d, with coordinates reduced mod N. -/
def quadMul (N d : Nat) (s t : Nat × Nat) : Nat × Nat :=
  ((s.1 * t.1 + d * (s.2 * t.2)) % N, (s.1 * t.2 + s.2 * t.1) % N)

/-- Exponentiation of an element x + y√d by bits, most significant first. -/
def quadPow (N d : Nat) (base : Nat × Nat) : List Bool → Nat × Nat → Nat × Nat
  | [], acc => acc
  | b :: bs, acc => quadPow N d base bs (if b then quadMul N d (quadMul N d acc acc) base else quadMul N d acc acc)

/-- The ring of elements x + y√d modulo r. -/
abbrev Quad (r d : Nat) := QuadraticAlgebra (ZMod r) (d : ZMod r) 0

/-- An element x + y√d modulo a factor r of N. -/
def toQuad (r d : Nat) (s : Nat × Nat) : Quad r d := ⟨s.1, s.2⟩

variable {N r d : Nat}

theorem cast_mod_of_dvd (hr : r ∣ N) (n : Nat) : ((n % N : Nat) : ZMod r) = n := by
  have h0 : (N : ZMod r) = 0 := (ZMod.natCast_eq_zero_iff _ _).2 hr
  conv_rhs => rw [← Nat.mod_add_div n N]
  push_cast
  rw [h0]; ring

theorem toQuad_mul (hr : r ∣ N) (s t : Nat × Nat) : toQuad r d (quadMul N d s t) = toQuad r d s * toQuad r d t := by
  ext <;> simp only [toQuad, quadMul, QuadraticAlgebra.re_mul, QuadraticAlgebra.im_mul, cast_mod_of_dvd hr]
    <;> push_cast <;> ring

theorem toQuad_one : toQuad r d (1, 0) = 1 := by
  ext <;> simp [toQuad, QuadraticAlgebra.re_one, QuadraticAlgebra.im_one]

theorem toQuad_quadPow (hr : r ∣ N) (base acc : Nat × Nat) (m : Nat) (bits : List Bool)
    (h : toQuad r d acc = toQuad r d base ^ m) :
    toQuad r d (quadPow N d base bits acc) = toQuad r d base ^ bitsValue bits m := by
  induction bits generalizing acc m with
  | nil => exact h
  | cons b bs ih =>
    refine ih _ _ ?_
    cases b <;> simp only [Bool.false_eq_true, if_false, if_true, toQuad_mul hr, h, Bool.toNat_true, Bool.toNat_false]
      <;> ring

theorem toQuad_pow (hr : r ∣ N) (w : Nat × Nat) {e : Nat} (he : e < 2 ^ 257) :
    toQuad r d (quadPow N d w (bitsMsbFirst 257 e) (1, 0)) = toQuad r d w ^ e := by
  rw [toQuad_quadPow hr w (1, 0) 0 _ (by rw [toQuad_one, pow_zero]), bitsValue_self he]

/-- An element s of which some coordinate of s - 1 is prime to N, so that it differs from 1 modulo every factor of N. -/
def differsFromOne (N : Nat) (s : Nat × Nat) : Bool :=
  Nat.gcd s.2 N == 1 || Nat.gcd (s.1 + (N - 1)) N == 1

/-- What the companion test computes: N + 1 is the product of the listed prime powers, and w has order N + 1. -/
def normCheck (N d : Nat) (w : Nat × Nat) (fs : List (Nat × Nat)) : Bool :=
  decide (1 < N) && decide (N + 1 < 2 ^ 257) && N + 1 == prodPowers fs
    && quadPow N d w (bitsMsbFirst 257 (N + 1)) (1, 0) == (1, 0)
    && fs.all fun f => differsFromOne N (quadPow N d w (bitsMsbFirst 257 ((N + 1) / f.1)) (1, 0))

theorem toQuad_ne_one (hN : 1 < N) (hr : r ∣ N) (hp : r.Prime) {s : Nat × Nat} (h : differsFromOne N s = true) :
    toQuad r d s ≠ 1 := by
  intro h1
  have hco : ∀ n : Nat, Nat.gcd n N = 1 → ((n : Nat) : ZMod r) ≠ 0 := fun n hn h0 => by
    have hd : r ∣ n := (ZMod.natCast_eq_zero_iff _ _).1 h0
    have := Nat.dvd_gcd hd hr
    rw [hn] at this
    exact hp.one_lt.ne' (Nat.dvd_one.1 this)
  have hre : (s.1 : ZMod r) = 1 := by
    have := congrArg QuadraticAlgebra.re h1
    simpa [toQuad, QuadraticAlgebra.re_one] using this
  have him : (s.2 : ZMod r) = 0 := by
    have := congrArg QuadraticAlgebra.im h1
    simpa [toQuad, QuadraticAlgebra.im_one] using this
  simp only [differsFromOne, Bool.or_eq_true, beq_iff_eq] at h
  rcases h with h | h
  · exact hco _ h him
  · refine hco _ h ?_
    have h0 : ((N : Nat) : ZMod r) = 0 := (ZMod.natCast_eq_zero_iff _ _).2 hr
    have : ((N - 1 : Nat) : ZMod r) = -1 := by
      rw [Nat.cast_sub (by omega), h0]; simp
    push_cast
    rw [hre, this]; ring

/-- The companion test: modulo a prime factor r of N the witness has order N + 1, which is below r², so r² ≤ N fails. -/
theorem prime_of_normCheck {w : Nat × Nat} {fs : List (Nat × Nat)} (h : normCheck N d w fs = true)
    (hfs : ∀ f ∈ fs, f.1.Prime) : N.Prime := by
  simp only [normCheck, Bool.and_eq_true, decide_eq_true_eq, beq_iff_eq, List.all_eq_true] at h
  obtain ⟨⟨⟨⟨h1, h2⟩, h3⟩, h4⟩, h5⟩ := h
  by_contra hnp
  have hr := Nat.minFac_dvd N
  have hp := Nat.minFac_prime (n := N) (by omega)
  have hsq := Nat.minFac_sq_le_self (n := N) (by omega) hnp
  generalize N.minFac = r at hr hp hsq
  have hord : orderOf (toQuad r d w) = N + 1 := by
    refine orderOf_eq_of_pow_and_pow_div_prime (by omega) ?_ fun q hq hd => ?_
    · rw [← toQuad_pow hr w h2, h4, toQuad_one]
    · rw [← toQuad_pow hr w (lt_of_le_of_lt (Nat.div_le_self _ _) h2)]
      rw [h3] at hd
      obtain ⟨f, hf, rfl⟩ := List.mem_map.1 (mem_of_dvd_prodPowers hq fs hfs hd)
      exact toQuad_ne_one h1 hr hp (h5 f hf)
  have : NeZero r := ⟨hp.ne_zero⟩
  have hcard : Nat.card (Quad r d) = r ^ 2 := by
    rw [Nat.card_congr (QuadraticAlgebra.equivProd (d : ZMod r) 0), Nat.card_prod, Nat.card_zmod, pow_two]
  have : Finite (Quad r d) := Finite.of_equiv _ (QuadraticAlgebra.equivProd (d : ZMod r) 0).symm
  have hlt : orderOf (toQuad r d w) ≤ r ^ 2 := hcard ▸ orderOf_le_card
  omega

end Sys2Proof.Laws.Primality
end

