-- ==== Sys2Proof/Laws/Prime.lean ====
section
/-! SUPPORT. p and n are prime (40_field R130, 41_point R171), by the complete factorisations of p + 1 and n + 1. -/

namespace Sys2Proof.Laws.Prime

-- One declaration after another: the long kernel evaluations below would otherwise hold many threads.
set_option Elab.async false

open Sys2Proof.Machine Sys2Proof.Laws.Primality

theorem prime_104711 : Nat.Prime 104711 := by norm_num

theorem prime_408913 : Nat.Prime 408913 := by norm_num

theorem prime_414721 : Nat.Prime 414721 := by norm_num

theorem prime_6096383 : Nat.Prime 6096383 := by norm_num

theorem prime_7369841 : Nat.Prime 7369841 := by norm_num

theorem prime_100140269 : Nat.Prime 100140269 := by
  refine prime_of_lucasCheck (a := 2) (fs := [(2, 2), (17, 1), (47, 1), (31333, 1)]) (by decide +kernel) ?_
  norm_num

theorem prime_654550279 : Nat.Prime 654550279 := by
  refine prime_of_lucasCheck (a := 6) (fs := [(2, 1), (3, 1), (71, 1), (719, 1), (2137, 1)]) (by decide +kernel) ?_
  norm_num

theorem prime_4278255361 : Nat.Prime 4278255361 := by
  refine prime_of_lucasCheck (a := 23) (fs := [(2, 8), (3, 1), (5, 1), (17, 1), (65537, 1)]) (by decide +kernel) ?_
  norm_num

theorem prime_11716319213377 : Nat.Prime 11716319213377 := by
  refine prime_of_lucasCheck (a := 5) (fs := [(2, 6), (3, 1), (79, 1), (1889, 1), (408913, 1)]) (by decide +kernel) ?_
  norm_num

theorem prime_44479210368001 : Nat.Prime 44479210368001 := by
  refine prime_of_lucasCheck (a := 13) (fs := [(2, 10), (3, 1), (5, 3), (19, 1), (6096383, 1)]) (by decide +kernel) ?_
  norm_num

theorem prime_167961876849786315949 : Nat.Prime 167961876849786315949 := by
  refine prime_of_lucasCheck (a := 6)
    (fs := [(2, 2), (3, 1), (4591, 1), (6967, 1), (59377, 1), (7369841, 1)]) (by decide +kernel) ?_
  norm_num

theorem prime_133653590105809649804418504197 : Nat.Prime 133653590105809649804418504197 := by
  refine prime_of_lucasCheck (a := 2)
    (fs := [(11716319213377, 1), (2, 2), (7, 1), (13, 1), (139, 1), (593, 1), (3631, 1), (104711, 1)])
    (by decide +kernel) ?_
  rw [List.forall_mem_cons]
  exact ⟨prime_11716319213377, by norm_num⟩

theorem prime_3188707352744406625033816673132027 : Nat.Prime 3188707352744406625033816673132027 := by
  refine prime_of_lucasCheck (a := 2)
    (fs := [(133653590105809649804418504197, 1), (2, 1), (79, 1), (151, 1)]) (by decide +kernel) ?_
  rw [List.forall_mem_cons]
  exact ⟨prime_133653590105809649804418504197, by norm_num⟩

/-- p is prime (40_field R130): p + 1 = 2^64 (2^32 - 1) (2^160 - 1), and (1 + √13)² / (1 - 13) has order p + 1. -/
theorem fieldPrime_prime : fieldPrime.Prime := by
  refine prime_of_normCheck (d := 13)
    (w := (96493407675296873963683621011684077305208628326603492878684328277741404159998,
      96493407675296873963683621011684077305208628326603492878684328277741404159999))
    (fs := [(4278255361, 1), (44479210368001, 1), (2, 64), (3, 2), (5, 3), (11, 1), (17, 2), (31, 1), (41, 1), (257, 2),
      (61681, 1), (65537, 2), (414721, 1)]) (by decide +kernel) ?_
  simp only [List.forall_mem_cons]
  exact ⟨prime_4278255361, prime_44479210368001, by norm_num⟩

/-- n is prime (41_point R171): (1 + √2)² / (1 - 2) has order n + 1. -/
theorem groupOrder_prime : groupOrder.Prime := by
  refine prime_of_normCheck (d := 2)
    (w := (115792089210356248756420345214020892766061623724957744567843809356293439045920,
      115792089210356248756420345214020892766061623724957744567843809356293439045921))
    (fs := [(3188707352744406625033816673132027, 1), (167961876849786315949, 1), (654550279, 1), (100140269, 1),
      (2, 2), (97, 1), (8501, 1)]) (by decide +kernel) ?_
  simp only [List.forall_mem_cons]
  exact ⟨prime_3188707352744406625033816673132027, prime_167961876849786315949, prime_654550279, prime_100140269,
    by norm_num⟩

end Sys2Proof.Laws.Prime
end

