-- ==== Sys2Proof/Laws/Curve.lean ====
section
/-! SUPPORT. The curve arithmetic of the model is Mathlib's group of points of the same curve over GF(p): the points of the
curve are the images of `fromPoint`, and `addPoint`, `doublePoint`, `scalarMultiple` and the ladder are its group operations. -/

namespace Sys2Proof.Laws.Curve

open Sys2Proof.Machine
open WeierstrassCurve.Affine (Point)

theorem prime_fact : Fact fieldPrime.Prime := ⟨Prime.fieldPrime_prime⟩

theorem modP_lt (v : Int) : modP v < fieldPrime := by
  unfold modP
  have h1 := Int.emod_nonneg v (b := (fieldPrime : Int)) (by decide)
  have h2 := Int.emod_lt_of_pos v (b := (fieldPrime : Int)) (by decide)
  omega

theorem modP_cast {R : Type*} [CommRing R] (hR : (fieldPrime : R) = 0) (v : Int) : ((modP v : Nat) : R) = (v : R) := by
  have h : ((modP v : Nat) : Int) = v % (fieldPrime : Int) :=
    Int.toNat_of_nonneg (Int.emod_nonneg _ (by decide))
  have h2 : ((modP v : Nat) : R) = ((v % (fieldPrime : Int) : Int) : R) := by rw [← h]; simp
  rw [h2]
  conv_rhs => rw [← Int.emod_add_mul_ediv v (fieldPrime : Int)]
  push_cast
  rw [hR]; ring

theorem prime_cast_zmod : ((fieldPrime : Nat) : ZMod fieldPrime) = 0 := ZMod.natCast_self _

theorem modP_zmod (v : Int) : ((modP v : Nat) : ZMod fieldPrime) = (v : ZMod fieldPrime) :=
  modP_cast prime_cast_zmod v

theorem val_cast_of_lt {x : Nat} (h : x < fieldPrime) : ((x : ZMod fieldPrime)).val = x :=
  ZMod.val_cast_of_lt h

/-- modP is the representative of a residue class. -/
theorem modP_eq_val (v : Int) : modP v = (v : ZMod fieldPrime).val := by
  rw [← modP_zmod, val_cast_of_lt (modP_lt v)]

theorem invP_lt (v : Int) : invP v < fieldPrime := powBits_lt _ _ _ (by decide)

variable [Fact fieldPrime.Prime]

theorem cast_val (a : ZMod fieldPrime) : ((a.val : Nat) : ZMod fieldPrime) = a := ZMod.natCast_zmod_val a

/-- invP is the inverse in GF(p), with 0 sent to 0. -/
theorem invP_zmod (v : Int) : ((invP v : Nat) : ZMod fieldPrime) = (v : ZMod fieldPrime)⁻¹ := by
  have hlt : fieldPrime - 2 < 2 ^ 256 := by decide
  have h := powBits_cast (R := ZMod fieldPrime) prime_cast_zmod (modP v) 0 (bitsMsbFirst 256 (fieldPrime - 2)) 1
    (by simp)
  rw [bitsValue_self hlt, modP_zmod] at h
  rw [invP, h]
  by_cases h0 : (v : ZMod fieldPrime) = 0
  · rw [h0, inv_zero, zero_pow (by decide)]
  · refine eq_inv_of_mul_eq_one_left ?_
    rw [← pow_succ, show fieldPrime - 2 + 1 = fieldPrime - 1 by decide]
    exact ZMod.pow_card_sub_one_eq_one h0

/-- The curve of 41_point R170 over GF(p). -/
def curve : WeierstrassCurve.Affine (ZMod fieldPrime) where
  a₁ := 0
  a₂ := 0
  a₃ := 0
  a₄ := (curveA : ZMod fieldPrime)
  a₆ := (curveB : ZMod fieldPrime)

theorem disc_ne_zero : curve.Δ ≠ 0 := by
  have h : curve.Δ = ((-16 * (4 * curveA ^ 3 + 27 * curveB ^ 2) : Int) : ZMod fieldPrime) := by
    simp only [WeierstrassCurve.Δ, WeierstrassCurve.b₂, WeierstrassCurve.b₄, WeierstrassCurve.b₆, WeierstrassCurve.b₈, curve]
    push_cast
    ring
  rw [h, Ne, ← modP_zmod, ← ZMod.val_eq_zero, val_cast_of_lt (modP_lt _)]
  decide +kernel

/-- A point of the curve as the model writes it. -/
def fromPoint : curve.Point → CurvePoint
  | .zero => .infinity
  | .some x y _ => .affine x.val y.val

theorem onCurve_affine_iff (x y : Nat) : onCurve (.affine x y) = true ↔
    x < fieldPrime ∧ y < fieldPrime ∧ curve.Equation (x : ZMod fieldPrime) (y : ZMod fieldPrime) := by
  rw [WeierstrassCurve.Affine.equation_iff]
  simp only [onCurve, Bool.and_eq_true, decide_eq_true_eq, beq_iff_eq, and_assoc]
  refine and_congr_right fun _ => and_congr_right fun _ => ?_
  rw [modP_eq_val, ZMod.val_eq_zero]
  push_cast
  simp only [curve]
  rw [sub_eq_zero]
  ring_nf

/-- The points of the curve are the images of Mathlib's points. -/
theorem onCurve_iff (q : CurvePoint) : onCurve q = true ↔ ∃ P : curve.Point, fromPoint P = q := by
  cases q with
  | infinity => exact ⟨fun _ => ⟨.zero, rfl⟩, fun _ => rfl⟩
  | affine x y =>
    rw [onCurve_affine_iff]
    constructor
    · rintro ⟨hx, hy, he⟩
      refine ⟨.some _ _ ((curve.equation_iff_nonsingular_of_Δ_ne_zero disc_ne_zero).1 he), ?_⟩
      simp [fromPoint, val_cast_of_lt hx, val_cast_of_lt hy]
    · rintro ⟨P, hP⟩
      cases P with
      | zero => cases hP
      | some a b hab =>
        simp only [fromPoint, CurvePoint.affine.injEq] at hP
        obtain ⟨rfl, rfl⟩ := hP
        exact ⟨ZMod.val_lt _, ZMod.val_lt _, by simpa [cast_val] using hab.1⟩

theorem fromPoint_injective : Function.Injective fromPoint := by
  intro P Q h
  cases P <;> cases Q <;> simp only [fromPoint, CurvePoint.affine.injEq, reduceCtorEq] at h
  · rfl
  · obtain ⟨hx, hy⟩ := h
    have h1 := ZMod.val_injective _ hx
    have h2 := ZMod.val_injective _ hy
    subst h1 h2
    rfl

theorem chordThird_eq (lam : Nat) (x1 y1 x2 : ZMod fieldPrime) :
    chordThird lam x1.val y1.val x2.val =
      .affine (curve.addX x1 x2 lam).val (curve.addY x1 x2 y1 lam).val := by
  simp only [chordThird, modP_eq_val, CurvePoint.affine.injEq]
  constructor <;> congr 1
  all_goals
    simp only [WeierstrassCurve.Affine.addX, WeierstrassCurve.Affine.addY, WeierstrassCurve.Affine.negY,
      WeierstrassCurve.Affine.negAddY, curve]
    push_cast
    simp only [cast_val]
    ring

theorem double_fromPoint (P : curve.Point) : doublePoint (fromPoint P) = fromPoint (P + P) := by
  cases P with
  | zero => rfl
  | some x y h =>
    by_cases hy : y = 0
    · subst hy
      rw [WeierstrassCurve.Affine.Point.add_self_of_Y_eq (by simp [WeierstrassCurve.Affine.negY, curve])]
      simp [fromPoint, doublePoint]
    · have h2 : (2 : ZMod fieldPrime) ≠ 0 := by
        have : ((2 : Nat) : ZMod fieldPrime) ≠ 0 := by
          rw [Ne, ← ZMod.val_eq_zero, val_cast_of_lt (by decide)]; decide
        simpa using this
      have hne : y ≠ curve.negY x y := by
        intro hc
        simp only [WeierstrassCurve.Affine.negY, curve, zero_mul, sub_zero] at hc
        have : 2 * y = 0 := by linear_combination hc
        rcases mul_eq_zero.1 this with h | h
        · exact h2 h
        · exact hy h
      rw [WeierstrassCurve.Affine.Point.add_self_of_Y_ne hne]
      have hv : y.val ≠ 0 := fun hc => hy ((ZMod.val_eq_zero _).1 hc)
      simp only [fromPoint, doublePoint, if_neg hv, chordThird_eq]
      have hs : ((modP ((3 * (x.val : Int) * x.val + curveA) * invP (2 * (y.val : Int))) : Nat) : ZMod fieldPrime)
          = curve.slope x x y y := by
        rw [modP_zmod, WeierstrassCurve.Affine.slope_of_Y_ne rfl hne]
        push_cast
        rw [invP_zmod]
        push_cast
        simp only [cast_val]
        simp only [WeierstrassCurve.Affine.negY, curve]
        rw [div_eq_mul_inv]
        ring_nf
      rw [hs]

theorem add_fromPoint (P Q : curve.Point) : addPoint (fromPoint P) (fromPoint Q) = fromPoint (P + Q) := by
  cases P with
  | zero => rw [show (Point.zero : curve.Point) + Q = Q from zero_add Q]; rfl
  | some x1 y1 h1 =>
    cases Q with
    | zero => rw [show Point.some x1 y1 h1 + (Point.zero : curve.Point) = _ from add_zero _]; rfl
    | some x2 y2 h2 =>
      have hsum : modP (((y1.val : Nat) : Int) + ((y2.val : Nat) : Int)) = 0 ↔ y1 = curve.negY x2 y2 := by
        rw [modP_eq_val, ZMod.val_eq_zero]
        push_cast
        simp only [cast_val, WeierstrassCurve.Affine.negY, curve, zero_mul, sub_zero]
        exact add_eq_zero_iff_eq_neg
      have hx : x1.val = x2.val ↔ x1 = x2 := ⟨fun h => ZMod.val_injective _ h, fun h => by rw [h]⟩
      simp only [fromPoint, addPoint]
      by_cases hx12 : x1 = x2
      · by_cases hy : y1 = curve.negY x2 y2
        · rw [if_pos ⟨hx.2 hx12, hsum.2 hy⟩, WeierstrassCurve.Affine.Point.add_of_Y_eq hx12 hy]
        · rw [if_neg fun h => hy (hsum.1 h.2), if_pos (hx.2 hx12)]
          have hyy : y1 = y2 := (WeierstrassCurve.Affine.Y_eq_of_X_eq h1.1 h2.1 hx12).resolve_right hy
          subst hx12 hyy
          exact double_fromPoint (Point.some x1 y1 h1)
      · rw [if_neg fun h => hx12 (hx.1 h.1), if_neg fun h => hx12 (hx.1 h),
          WeierstrassCurve.Affine.Point.add_of_X_ne hx12]
        have hs : ((modP ((((y2.val : Nat) : Int) - y1.val) * invP (((x2.val : Nat) : Int) - x1.val)) : Nat) :
            ZMod fieldPrime) = curve.slope x1 x2 y1 y2 := by
          rw [modP_zmod, WeierstrassCurve.Affine.slope_of_X_ne hx12]
          push_cast
          rw [invP_zmod]
          push_cast
          simp only [cast_val]
          rw [← neg_sub y2 y1, ← neg_sub x2 x1, neg_div_neg_eq, div_eq_mul_inv]
        rw [chordThird_eq, hs]

/-- k·Q of 41_point R178 is the multiple in the group. -/
theorem scalarMultiple_fromPoint (k : Nat) (P : curve.Point) : scalarMultiple k (fromPoint P) = fromPoint (k • P) := by
  induction k with
  | zero => rw [zero_nsmul]; rfl
  | succ k ih => rw [scalarMultiple, ih, add_fromPoint, succ_nsmul]

/-- The ladder's invariant A1 = Add(A0, Q) (41_point R199), and what it computes. -/
theorem ladder_fromPoint (bits : List Bool) (m : Nat) (P : curve.Point) :
    ladder bits (fromPoint (m • P)) (fromPoint ((m + 1) • P)) = fromPoint (bitsValue bits m • P) := by
  induction bits generalizing m with
  | nil => rfl
  | cons b bs ih =>
    cases b
    · simp only [ladder, Bool.false_eq_true, if_false, double_fromPoint, add_fromPoint, bitsValue, ← add_nsmul]
      rw [← ih]
      simp only [Bool.toNat_false, add_zero]
      congr 3 <;> ring
    · simp only [ladder, if_true, double_fromPoint, add_fromPoint, bitsValue, ← add_nsmul]
      rw [← ih]
      simp only [Bool.toNat_true]
      congr 3 <;> ring

theorem ladderMultiple_fromPoint {k : Nat} (hk : k < 2 ^ 256) (P : curve.Point) :
    ladderMultiple k (fromPoint P) = fromPoint (k • P) := by
  have h := ladder_fromPoint (bitsMsbFirst 256 k) 0 P
  rw [bitsValue_self hk, zero_nsmul, zero_add, one_nsmul] at h
  exact h

end Sys2Proof.Laws.Curve
end

