-- ==== Sys2Proof/Laws/Decode.lean ====
section
/-! SUPPORT. The fields of an encoded word. -/

namespace Sys2Proof

variable (o : BitVec 8) (a b c : BitVec 4) (n : BitVec 3)

@[simp] theorem opcodeOf_wordOf : opcodeOf (wordOf o a b c n) = o := by
  apply BitVec.eq_of_getLsbD_eq
  intro i hi
  simp only [opcodeOf, wordOf, BitVec.getLsbD_extractLsb', BitVec.getLsbD_append]
  have : ¬ 24 + i < 3 := by omega
  simp [hi, this, show ¬ 24 + i - 3 < 9 by omega, show ¬ 24 + i - 3 - 9 < 4 by omega,
    show ¬ 24 + i - 3 - 9 - 4 < 4 by omega, show ¬ 24 + i - 3 - 9 - 4 - 4 < 4 by omega,
    show 24 + i - 3 - 9 - 4 - 4 - 4 = i by omega]

theorem fieldA_wordOf : (wordOf o a b c n).extractLsb' 20 4 = a := by
  apply BitVec.eq_of_getLsbD_eq
  intro i hi
  simp only [wordOf, BitVec.getLsbD_extractLsb', BitVec.getLsbD_append]
  simp [hi, show ¬ 20 + i < 3 by omega, show ¬ 20 + i - 3 < 9 by omega, show ¬ 20 + i - 3 - 9 < 4 by omega,
    show ¬ 20 + i - 3 - 9 - 4 < 4 by omega,
    show 20 + i - 3 - 9 - 4 - 4 = i by omega]

theorem fieldB_wordOf : (wordOf o a b c n).extractLsb' 16 4 = b := by
  apply BitVec.eq_of_getLsbD_eq
  intro i hi
  simp only [wordOf, BitVec.getLsbD_extractLsb', BitVec.getLsbD_append]
  simp [hi, show ¬ 16 + i < 3 by omega, show ¬ 16 + i - 3 < 9 by omega, show ¬ 16 + i - 3 - 9 < 4 by omega, show 16 + i - 3 - 9 - 4 = i by omega]

theorem fieldC_wordOf : (wordOf o a b c n).extractLsb' 12 4 = c := by
  apply BitVec.eq_of_getLsbD_eq
  intro i hi
  simp only [wordOf, BitVec.getLsbD_extractLsb', BitVec.getLsbD_append]
  simp [hi, show ¬ 12 + i < 3 by omega, show ¬ 12 + i - 3 < 9 by omega,
    show 12 + i - 3 - 9 = i by omega]

@[simp] theorem countField_wordOf : countField (wordOf o a b c n) = n := by
  apply BitVec.eq_of_getLsbD_eq
  intro i hi
  simp only [countField, wordOf, BitVec.getLsbD_extractLsb', BitVec.getLsbD_append]
  simp [hi]

/-- A field's low two bits. -/
theorem low2_extract (w : Word) (lo : Nat) : w.extractLsb' lo 2 = (w.extractLsb' lo 4).extractLsb' 0 2 := by
  apply BitVec.eq_of_getLsbD_eq
  intro i hi
  simp [hi, show i < 4 by omega]

@[simp] theorem genField_A : genField 20 (wordOf o a b c n) = a.toFin := by rw [genField, fieldA_wordOf]

@[simp] theorem genField_B : genField 16 (wordOf o a b c n) = b.toFin := by rw [genField, fieldB_wordOf]

@[simp] theorem genField_C : genField 12 (wordOf o a b c n) = c.toFin := by rw [genField, fieldC_wordOf]

@[simp] theorem pointField_A : pointField 20 (wordOf o a b c n) = (a.extractLsb' 0 2).toFin := by
  rw [pointField, low2_extract, fieldA_wordOf]

@[simp] theorem pointField_B : pointField 16 (wordOf o a b c n) = (b.extractLsb' 0 2).toFin := by
  rw [pointField, low2_extract, fieldB_wordOf]

@[simp] theorem pointField_C : pointField 12 (wordOf o a b c n) = (c.extractLsb' 0 2).toFin := by
  rw [pointField, low2_extract, fieldC_wordOf]

@[simp] theorem genBits_toFin (r : GenReg) : (genBits r).toFin = r := rfl

@[simp] theorem pointBits_low (p : PointReg) : ((pointBits p).extractLsb' 0 2).toFin = p := by
  revert p; decide

/-- An encoded word as a number. -/
theorem wordOf_toNat : (wordOf o a b c n).toNat =
    o.toNat * 2 ^ 24 + a.toNat * 2 ^ 20 + b.toNat * 2 ^ 16 + c.toNat * 2 ^ 12 + n.toNat := by
  simp only [wordOf, BitVec.toNat_append]
  rw [← Nat.shiftLeft_add_eq_or_of_lt n.isLt, ← Nat.shiftLeft_add_eq_or_of_lt (0 : BitVec 9).isLt,
    ← Nat.shiftLeft_add_eq_or_of_lt c.isLt, ← Nat.shiftLeft_add_eq_or_of_lt b.isLt,
    ← Nat.shiftLeft_add_eq_or_of_lt a.isLt]
  simp only [Nat.shiftLeft_eq, show (0 : BitVec 9).toNat = 0 from rfl]
  omega

theorem genBits_toNat (r : GenReg) : (genBits r).toNat = r.val := rfl

theorem pointBits_toNat (p : PointReg) : (pointBits p).toNat = p.val := by revert p; decide

/-- Masking a word field by field. -/
theorem wordOf_and (o' : BitVec 8) (a' b' c' : BitVec 4) (z' : BitVec 9) (n' : BitVec 3) :
    wordOf o a b c n &&& (o' ++ a' ++ b' ++ c' ++ z' ++ n' : Word) =
      wordOf (o &&& o') (a &&& a') (b &&& b') (c &&& c') (n &&& n') := by
  apply BitVec.eq_of_getLsbD_eq
  intro i hi
  simp only [wordOf, BitVec.getLsbD_and, BitVec.getLsbD_append]
  split_ifs <;> simp

/-- Every word with nine zero bits in the middle is a word of its fields. -/
theorem wordOf_fields (w : Word) (h : w.extractLsb' 3 9 = 0) :
    w = wordOf (opcodeOf w) (w.extractLsb' 20 4) (w.extractLsb' 16 4) (w.extractLsb' 12 4) (countField w) := by
  apply BitVec.eq_of_getLsbD_eq
  intro i hi
  have hz : ∀ k, k < 9 → w.getLsbD (3 + k) = false := fun k hk => by
    have := congrArg (fun v => BitVec.getLsbD v k) h
    simpa [BitVec.getLsbD_extractLsb', hk] using this
  simp only [wordOf, opcodeOf, countField, BitVec.getLsbD_append, BitVec.getLsbD_extractLsb']
  split
  · rename_i h3; simp [h3]
  · split
    · rename_i h3 h9
      have := hz (i - 3) h9
      rw [show 3 + (i - 3) = i by omega] at this
      simpa using this
    · split
      · rename_i h3 h9 h4; simp [h4, show 12 + (i - 3 - 9) = i by omega]
      · split
        · rename_i h3 h9 h4 h5; simp [h5, show 16 + (i - 3 - 9 - 4) = i by omega]
        · split
          · rename_i h3 h9 h4 h5 h6; simp [h6, show 20 + (i - 3 - 9 - 4 - 4) = i by omega]
          · rename_i h3 h9 h4 h5 h6
            simp [show i - 3 - 9 - 4 - 4 - 4 < 8 by omega, show 24 + (i - 3 - 9 - 4 - 4 - 4) = i by omega]

end Sys2Proof
end

