-- ==== Sys2Proof/Laws/Ops.lean ====
section
/-! SUPPORT. What the shared operations can do: the end of a command, the words of a 256-bit register, the range of the
codes. -/

namespace Sys2Proof.Machine

/-- A command ends in its writes with E_OK, or in an error with none of them. -/
theorem finish_eq_next {s t : State} {r : Except Code State} (h : finish s r = .next t) :
    (∃ u, r = .ok u ∧ t = u.complete .ok) ∨ ∃ c, r = .error c ∧ t = s.complete c := by
  cases r with
  | ok u => exact .inl ⟨u, rfl, by simpa [finish] using h.symm⟩
  | error c => exact .inr ⟨c, rfl, by simpa [finish] using h.symm⟩

/-- Every command completes. -/
theorem finish_next (s : State) (r : Except Code State) : ∃ t, finish s r = .next t := by
  cases r <;> exact ⟨_, rfl⟩

@[simp] theorem finish_ok (s u : State) : finish s (.ok u) = .next (u.complete .ok) := rfl

@[simp] theorem finish_error (s : State) (c : Code) : finish s (.error c) = .next (s.complete c) := rfl

theorem code_bits_le (c : Code) : c.bits.toNat ≤ 5 := by
  cases c <;> decide

theorem code_bits_eq_zero {c : Code} : c.bits = 0 ↔ c = .ok := by
  cases c <;> decide

/-- Word j of a 256-bit value as a number. -/
theorem wordGet_toNat (v : U256) (j : Fin 8) : (wordGet v j).toNat = v.toNat / 2 ^ (224 - 32 * j.val) % 2 ^ 32 := by
  simp [wordGet, BitVec.extractLsb'_toNat, Nat.shiftRight_eq_div_pow]

/-- Reading the word just written. -/
theorem wordGet_wordSet_same (v : U256) (j : Fin 8) (w : Word) : wordGet (wordSet v j w) j = w := by
  apply BitVec.eq_of_getLsbD_eq
  intro i hi
  have hj := j.isLt
  simp only [wordGet, wordSet, BitVec.getLsbD_extractLsb', BitVec.getLsbD_or, BitVec.getLsbD_and, BitVec.getLsbD_not,
    BitVec.getLsbD_shiftLeft, BitVec.getLsbD_setWidth, BitVec.getLsbD_allOnes]
  have h1 : 224 - 32 * j.val + i - (224 - 32 * j.val) = i := by omega
  have h2 : ¬ (224 - 32 * j.val + i < 224 - 32 * j.val) := by omega
  have h3 : 224 - 32 * j.val + i < 256 := by omega
  have h4 : i < 256 := by omega
  simp [h1, h2, h3, h4, hi]

/-- Writing one word leaves the others. -/
theorem wordGet_wordSet_other (v : U256) {j k : Fin 8} (w : Word) (h : k ≠ j) :
    wordGet (wordSet v j w) k = wordGet v k := by
  apply BitVec.eq_of_getLsbD_eq
  intro i hi
  have hj := j.isLt
  have hk := k.isLt
  have hne : k.val ≠ j.val := fun hc => h (Fin.ext hc)
  simp only [wordGet, wordSet, BitVec.getLsbD_extractLsb', BitVec.getLsbD_or, BitVec.getLsbD_and, BitVec.getLsbD_not,
    BitVec.getLsbD_shiftLeft, BitVec.getLsbD_setWidth, BitVec.getLsbD_allOnes]
  have h3 : 224 - 32 * k.val + i < 256 := by omega
  by_cases hlt : 224 - 32 * k.val + i < 224 - 32 * j.val
  · simp [hlt, h3]
  · have he : 32 ≤ 224 - 32 * k.val + i - (224 - 32 * j.val) := by omega
    have hd : ¬ (224 - 32 * k.val + i - (224 - 32 * j.val) < 32) := by omega
    simp [hlt, h3, he, hd]

end Sys2Proof.Machine
end

