-- ==== Sys2Proof/Laws/Operands.lean ====
section
/-! SUPPORT. What the operand forms can be: a residue, the stored form of a point value, the byte mask of ZXOR. -/

namespace Sys2Proof.Machine

@[simp] theorem inRange_iff (v : Nat) : inRange v = true ↔ v < fieldPrime := by
  simp [inRange]

theorem readScalar_lt (s : State) (i : GenReg) : readScalar s i < 2 ^ 256 := (s.gpr[i.val]).isLt

/-- Storing a point value and reading the triple back gives the value, for coordinates of 256 bits (41_point R172, R173). -/
theorem pointOf_storePoint_affine {x y : Nat} (hx : x < 2 ^ 256) (hy : y < 2 ^ 256) :
    pointOf (storePoint (.affine x y)) = .affine x y := by
  simp only [storePoint, pointOf, Bool.false_eq_true, if_false, BitVec.toNat_ofNat, Nat.mod_eq_of_lt hx, Nat.mod_eq_of_lt hy]

@[simp] theorem pointOf_storePoint_infinity : pointOf (storePoint .infinity) = .infinity := rfl

/-- Bit i of the mask of the top n bytes: set from bit 32 - 8n up (43_xor R270). -/
theorem topBytesMask_getLsbD {n : BitVec 3} (h : n ∈ [1, 2, 3, 4]) {i : Nat} (hi : i < 32) :
    (topBytesMask n).getLsbD i = decide (32 - 8 * n.toNat ≤ i) := by
  fin_cases h <;> interval_cases i <;> rfl

end Sys2Proof.Machine
end

