-- ==== Sys2Proof/Laws/Exec.lean ====
section
/-! SUPPORT. Everything the execution of a command can do, said once: `exec_cases`. -/

namespace Sys2Proof.Machine

/-- The writes a command makes when it completes with E_OK: `u` is `s` after them, before the bookkeeping. -/
def CommandWrites (s u : State) : Instr → Prop
  | .nop => u = s
  | .fadd rd _ _ | .fsub rd _ _ | .fmul rd _ _ | .fsqr rd _ | .finv rd _ =>
    ∃ v : U256, v.toNat < fieldPrime ∧ u = s.setGpr rd v
  | .padd pd _ _ | .pdbl pd _ | .pmul pd _ _ | .pldg pd =>
    ∃ q : CurvePoint, onCurve q = true ∧ u = s.setPoint pd (storePoint q)
  | .pchk ps => u = s.setCheck (onCurve (readPoint s ps)) (onCurve (readPoint s ps) && readPoint s ps != .infinity)
  | .zinit => u = s.setZucReady (zucInit s.key s.iv)
  | .zgen => s.zrdy = true ∧ u = s.setZout (keystreamWord s.zuc) (keystreamNext s.zuc)
  | .zxor n => s.zrdy = true ∧
      u = s.setDout ((s.din ^^^ keystreamWord s.zuc) &&& topBytesMask n) (keystreamNext s.zuc)

theorem ofNat_modP_lt (v : Int) : (BitVec.ofNat 256 (modP v)).toNat < fieldPrime := by
  rw [BitVec.toNat_ofNat]
  exact lt_of_le_of_lt (Nat.mod_le _ _) (Laws.Curve.modP_lt v)

theorem fieldBinary_ok {f : Nat → Nat → Nat} {rd rs1 rs2 : GenReg} {s u : State}
    (hf : ∀ a b, f a b < fieldPrime) (h : fieldBinary f rd rs1 rs2 s = .ok u) :
    ∃ v : U256, v.toNat < fieldPrime ∧ u = s.setGpr rd v := by
  simp only [fieldBinary] at h
  split at h
  · cases h
    refine ⟨_, ?_, rfl⟩
    rw [BitVec.toNat_ofNat]
    exact lt_of_le_of_lt (Nat.mod_le _ _) (hf _ _)
  · cases h

/-- The sum of two points of the curve is on the curve (41_point R173). -/
theorem onCurve_addPoint {q1 q2 : CurvePoint} (h1 : onCurve q1 = true) (h2 : onCurve q2 = true) :
    onCurve (addPoint q1 q2) = true := by
  have := Laws.Curve.prime_fact
  obtain ⟨P, rfl⟩ := (Laws.Curve.onCurve_iff q1).1 h1
  obtain ⟨Q, rfl⟩ := (Laws.Curve.onCurve_iff q2).1 h2
  exact (Laws.Curve.onCurve_iff _).2 ⟨P + Q, (Laws.Curve.add_fromPoint P Q).symm⟩

/-- The double of a point of the curve is on the curve. -/
theorem onCurve_doublePoint {q : CurvePoint} (h : onCurve q = true) : onCurve (doublePoint q) = true := by
  have := Laws.Curve.prime_fact
  obtain ⟨P, rfl⟩ := (Laws.Curve.onCurve_iff q).1 h
  exact (Laws.Curve.onCurve_iff _).2 ⟨P + P, (Laws.Curve.double_fromPoint P).symm⟩

/-- The ladder's result is on the curve. -/
theorem onCurve_ladderMultiple {k : Nat} {q : CurvePoint} (hk : k < 2 ^ 256) (h : onCurve q = true) :
    onCurve (ladderMultiple k q) = true := by
  have := Laws.Curve.prime_fact
  obtain ⟨P, rfl⟩ := (Laws.Curve.onCurve_iff q).1 h
  exact (Laws.Curve.onCurve_iff _).2 ⟨k • P, (Laws.Curve.ladderMultiple_fromPoint hk P).symm⟩

/-- The value of a point of the curve survives the register (41_point R172, R173). -/
theorem pointOf_storePoint {q : CurvePoint} (h : onCurve q = true) : pointOf (storePoint q) = q := by
  cases q with
  | infinity => rfl
  | affine x y =>
    simp only [onCurve, Bool.and_eq_true, decide_eq_true_eq] at h
    have hp : fieldPrime < 2 ^ 256 := by decide
    exact pointOf_storePoint_affine (by omega) (by omega)

/-- What a field command with two sources does. -/
theorem fieldBinary_inRange (f : Nat → Nat → Nat) (rd rs1 rs2 : GenReg) (s : State)
    (h : readScalar s rs1 < fieldPrime ∧ readScalar s rs2 < fieldPrime) :
    fieldBinary f rd rs1 rs2 s = .ok (s.setGpr rd (BitVec.ofNat 256 (f (readScalar s rs1) (readScalar s rs2)))) := by
  simp only [fieldBinary]
  rw [if_pos (by simpa using h)]

theorem fieldBinary_outOfRange (f : Nat → Nat → Nat) (rd rs1 rs2 : GenReg) (s : State)
    (h : ¬ (readScalar s rs1 < fieldPrime ∧ readScalar s rs2 < fieldPrime)) :
    fieldBinary f rd rs1 rs2 s = .error .range := by
  simp only [fieldBinary]
  rw [if_neg (by simpa using h)]

/-- A command ends in an error that changes nothing but the bookkeeping, or with E_OK and its writes. -/
theorem exec_cases {i : Instr} {s t : State} (h : exec i s = .next t) :
    (∃ c, c ≠ .ok ∧ t = s.complete c) ∨ ∃ u, CommandWrites s u i ∧ t = u.complete .ok := by
  cases i with
  | nop => exact .inr ⟨s, rfl, by simpa [exec, execNop] using h.symm⟩
  | fadd rd rs1 rs2 =>
    rcases finish_eq_next h with ⟨u, hu, rfl⟩ | ⟨c, hc, rfl⟩
    · exact .inr ⟨u, fieldBinary_ok (fun _ _ => Laws.Curve.modP_lt _) hu, rfl⟩
    · refine .inl ⟨c, ?_, rfl⟩
      simp only [fieldBinary] at hc
      split at hc <;> cases hc
      decide
  | fsub rd rs1 rs2 =>
    rcases finish_eq_next h with ⟨u, hu, rfl⟩ | ⟨c, hc, rfl⟩
    · exact .inr ⟨u, fieldBinary_ok (fun _ _ => Laws.Curve.modP_lt _) hu, rfl⟩
    · refine .inl ⟨c, ?_, rfl⟩
      simp only [fieldBinary] at hc
      split at hc <;> cases hc
      decide
  | fmul rd rs1 rs2 =>
    rcases finish_eq_next h with ⟨u, hu, rfl⟩ | ⟨c, hc, rfl⟩
    · exact .inr ⟨u, fieldBinary_ok (fun _ _ => Laws.Curve.modP_lt _) hu, rfl⟩
    · refine .inl ⟨c, ?_, rfl⟩
      simp only [fieldBinary] at hc
      split at hc <;> cases hc
      decide
  | fsqr rd rs =>
    simp only [exec, execFsqr] at h
    split at h
    · exact .inr ⟨_, ⟨_, ofNat_modP_lt _, rfl⟩, by simpa using h.symm⟩
    · exact .inl ⟨.range, by decide, by simpa using h.symm⟩
  | finv rd rs =>
    simp only [exec, execFinv] at h
    split at h
    · split at h
      · exact .inl ⟨.noInv, by decide, by simpa using h.symm⟩
      · refine .inr ⟨_, ⟨_, ?_, rfl⟩, by simpa using h.symm⟩
        rw [BitVec.toNat_ofNat]
        exact lt_of_le_of_lt (Nat.mod_le _ _) (Laws.Curve.invP_lt _)
    · exact .inl ⟨.range, by decide, by simpa using h.symm⟩
  | padd pd ps1 ps2 =>
    simp only [exec, execPadd] at h
    split at h
    · rename_i hc
      rw [Bool.and_eq_true] at hc
      exact .inr ⟨_, ⟨_, onCurve_addPoint hc.1 hc.2, rfl⟩, by simpa using h.symm⟩
    · exact .inl ⟨.invPoint, by decide, by simpa using h.symm⟩
  | pdbl pd ps =>
    simp only [exec, execPdbl] at h
    split at h
    · exact .inr ⟨_, ⟨_, onCurve_doublePoint (by assumption), rfl⟩, by simpa using h.symm⟩
    · exact .inl ⟨.invPoint, by decide, by simpa using h.symm⟩
  | pmul pd rk ps =>
    simp only [exec, execPmul] at h
    split at h
    · exact .inr ⟨_, ⟨_, onCurve_ladderMultiple (readScalar_lt s rk) (by assumption), rfl⟩, by simpa using h.symm⟩
    · exact .inl ⟨.invPoint, by decide, by simpa using h.symm⟩
  | pchk ps => exact .inr ⟨_, rfl, by simpa [exec, execPchk] using h.symm⟩
  | pldg pd => exact .inr ⟨_, ⟨basePoint, by decide +kernel, rfl⟩, by simpa [exec, execPldg] using h.symm⟩
  | zinit => exact .inr ⟨_, rfl, by simpa [exec, execZinit] using h.symm⟩
  | zgen =>
    simp only [exec, execZgen] at h
    split at h
    · exact .inr ⟨_, ⟨by assumption, rfl⟩, by simpa using h.symm⟩
    · exact .inl ⟨.notInit, by decide, by simpa using h.symm⟩
  | zxor n =>
    simp only [exec, execZxor] at h
    split at h
    · split at h
      · exact .inr ⟨_, ⟨by assumption, rfl⟩, by simpa using h.symm⟩
      · exact .inl ⟨.notInit, by decide, by simpa using h.symm⟩
    · exact .inl ⟨.illegal, by decide, by simpa using h.symm⟩

/-- Every command completes: exec never faults and never refuses. -/
theorem exec_next (i : Instr) (s : State) : ∃ t, exec i s = .next t := by
  cases i <;> first | exact ⟨_, rfl⟩ | exact finish_next _ _

end Sys2Proof.Machine
end

