-- ==== Sys2Proof/Laws/GroupOrder.lean ====
section
/-! SUPPORT. The group of the curve has exactly n points (41_point R171, cofactor 1). G has order n, so n divides the
number of points; there are at most 2 p + 1 < 3 n of them; and no point has order 2, because x³ + ax + b has no root. -/

namespace Sys2Proof.Laws.GroupOrder

-- One declaration after another: the long kernel evaluations below would otherwise hold many threads.
set_option Elab.async false

open Sys2Proof.Machine Sys2Proof.Laws.Curve
open WeierstrassCurve.Affine (Point)

/-- A polynomial c0 + c1 x + c2 x² modulo x³ + ax + b and p. -/
structure Cubic where
  c0 : Nat
  c1 : Nat
  c2 : Nat
  deriving DecidableEq

/-- The product modulo x³ + ax + b, with -a and -b as residues. -/
def Cubic.mul (u v : Cubic) : Cubic :=
  let na := fieldPrime - curveA
  let nb := fieldPrime - curveB
  let d3 := (u.c1 * v.c2 + u.c2 * v.c1) % fieldPrime
  let d4 := (u.c2 * v.c2) % fieldPrime
  { c0 := (u.c0 * v.c0 + nb * d3) % fieldPrime
    c1 := (u.c0 * v.c1 + u.c1 * v.c0 + na * d3 + nb * d4) % fieldPrime
    c2 := (u.c0 * v.c2 + u.c1 * v.c1 + u.c2 * v.c0 + na * d4) % fieldPrime }

/-- Powers by bits, most significant first. -/
def Cubic.pow (base : Cubic) : List Bool → Cubic → Cubic
  | [], acc => acc
  | b :: bs, acc => Cubic.pow base bs (if b then (acc.mul acc).mul base else acc.mul acc)

/-- The polynomial's value at t. -/
def Cubic.eval (u : Cubic) (t : ZMod fieldPrime) : ZMod fieldPrime :=
  u.c0 + u.c1 * t + u.c2 * t ^ 2

/-- x^p modulo the cubic, minus x, times a certificate, is 1: no x with x^p = x is a root. -/
theorem frobenius_certificate :
    let f := Cubic.pow ⟨0, 1, 0⟩ (bitsMsbFirst 256 fieldPrime) ⟨1, 0, 0⟩
    Cubic.mul ⟨f.c0, f.c1 + (fieldPrime - 1), f.c2⟩
      ⟨106557179798172127300574136655860231618341984660982404479791742557385015191369,
       84996361976986330174717689059298811725079258493181573729141059899368768071857,
       35585630630933897022180037835235642085639273520660122098341330484096648951663⟩ = ⟨1, 0, 0⟩ := by
  decide +kernel

theorem natCast_mod (n : Nat) : ((n % fieldPrime : Nat) : ZMod fieldPrime) = n := ZMod.natCast_mod n fieldPrime

section

variable {t : ZMod fieldPrime} (ht : t ^ 3 + curveA * t + curveB = 0)

include ht

theorem eval_mul (u v : Cubic) : (u.mul v).eval t = u.eval t * v.eval t := by
  have ha : ((fieldPrime - curveA : Nat) : ZMod fieldPrime) = -curveA := by
    rw [Nat.cast_sub (by decide), prime_cast_zmod, zero_sub]
  have hb : ((fieldPrime - curveB : Nat) : ZMod fieldPrime) = -curveB := by
    rw [Nat.cast_sub (by decide), prime_cast_zmod, zero_sub]
  simp only [Cubic.eval, Cubic.mul, natCast_mod, Nat.cast_add, Nat.cast_mul, ha, hb]
  linear_combination (-(((u.c1 : ZMod fieldPrime) * v.c2 + u.c2 * v.c1)) - (u.c2 : ZMod fieldPrime) * v.c2 * t) * ht

theorem eval_pow (base acc : Cubic) (m : Nat) (bits : List Bool) (h : acc.eval t = base.eval t ^ m) :
    (Cubic.pow base bits acc).eval t = base.eval t ^ bitsValue bits m := by
  induction bits generalizing acc m with
  | nil => exact h
  | cons b bs ih =>
    refine ih _ _ ?_
    cases b <;> simp only [Bool.false_eq_true, if_false, if_true, eval_mul ht, h, Bool.toNat_true, Bool.toNat_false]
      <;> ring

end

/-- n·G = O (41_point R171), by the ladder. -/
theorem ladder_groupOrder : ladderMultiple groupOrder basePoint = .infinity := by
  decide +kernel

variable [Fact fieldPrime.Prime]

/-- x³ + ax + b has no root in GF(p). -/
theorem cubic_ne_zero (t : ZMod fieldPrime) : t ^ 3 + curveA * t + curveB ≠ 0 := by
  intro ht
  have hp := eval_pow ht ⟨0, 1, 0⟩ ⟨1, 0, 0⟩ 0 (bitsMsbFirst 256 fieldPrime) (by simp [Cubic.eval])
  rw [bitsValue_self (by decide +kernel)] at hp
  have hx : Cubic.eval ⟨0, 1, 0⟩ t = t := by simp [Cubic.eval]
  rw [hx, ZMod.pow_card] at hp
  have hc := frobenius_certificate
  generalize Cubic.pow ⟨0, 1, 0⟩ (bitsMsbFirst 256 fieldPrime) ⟨1, 0, 0⟩ = f at hc hp
  have he := congrArg (fun u => Cubic.eval u t) hc
  simp only [eval_mul ht] at he
  have h0 : Cubic.eval ⟨f.c0, f.c1 + (fieldPrime - 1), f.c2⟩ t = 0 := by
    have hm : ((fieldPrime - 1 : Nat) : ZMod fieldPrime) = -1 := by
      rw [Nat.cast_sub (by decide), prime_cast_zmod]; simp
    simp only [Cubic.eval] at hp ⊢
    push_cast
    rw [hm]
    linear_combination hp
  rw [h0, zero_mul] at he
  simp [Cubic.eval] at he

/-- No point has order 2: y = 0 never holds on the curve. -/
theorem two_nsmul_ne_zero {P : curve.Point} (h : P ≠ 0) : 2 • P ≠ 0 := by
  intro h2
  cases P with
  | zero => exact h rfl
  | some x y hP =>
    have hneg : -(Point.some x y hP) = Point.some x y hP := by
      rw [two_nsmul] at h2
      exact neg_eq_of_add_eq_zero_left h2
    rw [WeierstrassCurve.Affine.Point.neg_some] at hneg
    have hy : curve.negY x y = y := by
      injection hneg
    have hy0 : y = 0 := by
      have h2' : (2 : ZMod fieldPrime) ≠ 0 := by
        have : ((2 : Nat) : ZMod fieldPrime) ≠ 0 := by
          rw [Ne, ← ZMod.val_eq_zero, val_cast_of_lt (by decide)]; decide
        simpa using this
      simp only [WeierstrassCurve.Affine.negY, curve, zero_mul, sub_zero] at hy
      have : 2 * y = 0 := by linear_combination -hy
      exact (mul_eq_zero.1 this).resolve_left h2'
    have he := hP.1
    rw [WeierstrassCurve.Affine.equation_iff] at he
    simp only [curve, hy0] at he
    exact cubic_ne_zero x (by linear_combination -he)

/-- A point's abscissa and which half of the field its ordinate lies in: enough to name it. -/
def pointKey : curve.Point → Option (ZMod fieldPrime × Bool)
  | .zero => none
  | .some x y _ => some (x, decide (2 * y.val < fieldPrime))

theorem pointKey_injective : Function.Injective pointKey := by
  intro P Q h
  cases P with
  | zero => cases Q with
    | zero => rfl
    | some => simp [pointKey] at h
  | some x y hP => cases Q with
    | zero => simp [pointKey] at h
    | some x' y' hQ =>
      simp only [pointKey, Option.some.injEq, Prod.mk.injEq] at h
      obtain ⟨rfl, hk⟩ := h
      rcases WeierstrassCurve.Affine.Y_eq_of_X_eq hP.1 hQ.1 rfl with hy | hy
      · subst hy; rfl
      · simp only [WeierstrassCurve.Affine.negY, curve, zero_mul, sub_zero] at hy
        by_cases h0 : y' = 0
        · subst h0; simp only [neg_zero] at hy; subst hy; rfl
        · exfalso
          subst hy
          have hv : (-y').val = fieldPrime - y'.val := by
            have : NeZero y' := ⟨h0⟩
            exact ZMod.val_neg_of_ne_zero y'
          have hlt := ZMod.val_lt y'
          have hodd : fieldPrime % 2 = 1 := by decide
          rw [hv, decide_eq_decide] at hk
          omega

/-- The base point in Mathlib's group. -/
theorem exists_basePoint : ∃ P : curve.Point, fromPoint P = basePoint :=
  (onCurve_iff basePoint).1 (by decide +kernel)

/-- The group has exactly n points. -/
theorem card_points : Nat.card curve.Point = groupOrder := by
  have hfin : Finite curve.Point := Finite.of_injective _ pointKey_injective
  obtain ⟨G, hG⟩ := exists_basePoint
  have hn : groupOrder • G = 0 := by
    apply fromPoint_injective
    rw [← ladderMultiple_fromPoint (by decide +kernel), hG, ladder_groupOrder]
    rfl
  have hG0 : G ≠ 0 := by
    rintro rfl
    cases hG
  have : Fact groupOrder.Prime := ⟨Prime.groupOrder_prime⟩
  have hord : addOrderOf G = groupOrder :=
    addOrderOf_eq_prime_iff.2 ⟨hn, hG0⟩
  have hdvd : groupOrder ∣ Nat.card curve.Point := hord ▸ addOrderOf_dvd_natCard G
  have hle : Nat.card curve.Point ≤ 2 * fieldPrime + 1 := by
    have h := Nat.card_le_card_of_injective _ pointKey_injective
    have hc : Nat.card (Option (ZMod fieldPrime × Bool)) = 2 * fieldPrime + 1 := by
      rw [Finite.card_option, Nat.card_prod, Nat.card_zmod, Nat.card_eq_fintype_card, Fintype.card_bool]; ring
    omega
  have hpos : 0 < Nat.card curve.Point := Nat.card_pos
  obtain ⟨m, hm⟩ := hdvd
  have hm3 : m < 3 := by
    by_contra hc
    have : groupOrder * 3 ≤ groupOrder * m := Nat.mul_le_mul_left _ (by omega)
    have h3 : 2 * fieldPrime + 1 < groupOrder * 3 := by decide
    omega
  interval_cases m
  · omega
  · omega
  · exfalso
    have := Fintype.ofFinite curve.Point
    obtain ⟨P, hP⟩ := exists_prime_addOrderOf_dvd_card (G := curve.Point) 2
      (by rw [← Nat.card_eq_fintype_card, hm]; exact Dvd.intro_left _ rfl)
    have hP0 : P ≠ 0 := by
      rintro rfl
      simp at hP
    exact two_nsmul_ne_zero hP0 (by rw [← hP]; exact addOrderOf_nsmul_eq_zero P)

/-- Every point of the curve is killed by n (41_point R178). -/
theorem groupOrder_nsmul (P : curve.Point) : groupOrder • P = 0 := by
  rw [← card_points]
  exact card_nsmul_eq_zero'

/-- A point other than O has order n (41_point R171). -/
theorem nsmul_eq_zero_iff {P : curve.Point} (h : P ≠ 0) (k : Nat) : k • P = 0 ↔ groupOrder ∣ k := by
  have : Fact groupOrder.Prime := ⟨Prime.groupOrder_prime⟩
  rw [← addOrderOf_eq_prime_iff.2 ⟨groupOrder_nsmul P, h⟩]
  exact addOrderOf_dvd_iff_nsmul_eq_zero.symm

end Sys2Proof.Laws.GroupOrder
end

