-- ==== Sys2Proof/Laws/PerInstr.lean ====
section
/-! SUPPORT. Statements about every command as syntax, one lemma a constructor. -/

namespace Sys2Proof.Laws.EncodedShape

/-- The encoded word has the shape of a row of the opcode map (30_encoding R105): the row's opcode is its OPC, and it
meets the row's mask and match. -/
def Statement (i : Instr) : Prop :=
  ∃ row, rowOf (opcodeOf (encode i)) = some row ∧ encode i &&& row.mask = row.pat

theorem nop : Statement .nop := ⟨_, rfl, rfl⟩

theorem fadd (rd rs1 rs2 : GenReg) : Statement (.fadd rd rs1 rs2) := by
  refine ⟨_, by rw [encode, opcodeOf_wordOf]; rfl, ?_⟩
  exact (wordOf_and _ _ _ _ _ 0xFF 0 0 0 0x1FF 7).trans (by simp; rfl)

theorem fsub (rd rs1 rs2 : GenReg) : Statement (.fsub rd rs1 rs2) := by
  refine ⟨_, by rw [encode, opcodeOf_wordOf]; rfl, ?_⟩
  exact (wordOf_and _ _ _ _ _ 0xFF 0 0 0 0x1FF 7).trans (by simp; rfl)

theorem fmul (rd rs1 rs2 : GenReg) : Statement (.fmul rd rs1 rs2) := by
  refine ⟨_, by rw [encode, opcodeOf_wordOf]; rfl, ?_⟩
  exact (wordOf_and _ _ _ _ _ 0xFF 0 0 0 0x1FF 7).trans (by simp; rfl)

theorem fsqr (rd rs : GenReg) : Statement (.fsqr rd rs) := by
  refine ⟨_, by rw [encode, opcodeOf_wordOf]; rfl, ?_⟩
  exact (wordOf_and _ _ _ _ _ 0xFF 0 0 0xF 0x1FF 7).trans (by simp; rfl)

theorem finv (rd rs : GenReg) : Statement (.finv rd rs) := by
  refine ⟨_, by rw [encode, opcodeOf_wordOf]; rfl, ?_⟩
  exact (wordOf_and _ _ _ _ _ 0xFF 0 0 0xF 0x1FF 7).trans (by simp; rfl)

theorem pointBits_and_high (p : PointReg) : pointBits p &&& 0xC = 0 := by
  revert p; decide

theorem padd (pd ps1 ps2 : PointReg) : Statement (.padd pd ps1 ps2) := by
  refine ⟨_, by rw [encode, opcodeOf_wordOf]; rfl, ?_⟩
  refine (wordOf_and _ _ _ _ _ 0xFF 0xC 0xC 0xC 0x1FF 7).trans ?_
  rw [pointBits_and_high, pointBits_and_high, pointBits_and_high]; rfl

theorem pdbl (pd ps : PointReg) : Statement (.pdbl pd ps) := by
  refine ⟨_, by rw [encode, opcodeOf_wordOf]; rfl, ?_⟩
  refine (wordOf_and _ _ _ _ _ 0xFF 0xC 0xC 0xF 0x1FF 7).trans ?_
  rw [pointBits_and_high, pointBits_and_high]; rfl

theorem pmul (pd : PointReg) (rk : GenReg) (ps : PointReg) : Statement (.pmul pd rk ps) := by
  refine ⟨_, by rw [encode, opcodeOf_wordOf]; rfl, ?_⟩
  refine (wordOf_and _ _ _ _ _ 0xFF 0xC 0 0xC 0x1FF 7).trans ?_
  rw [pointBits_and_high, pointBits_and_high, show genBits rk &&& 0 = 0 from BitVec.and_zero]; rfl

theorem pchk (ps : PointReg) : Statement (.pchk ps) := by
  refine ⟨_, by rw [encode, opcodeOf_wordOf]; rfl, ?_⟩
  refine (wordOf_and _ _ _ _ _ 0xFF 0xF 0xC 0xF 0x1FF 7).trans ?_
  rw [pointBits_and_high]; rfl

theorem pldg (pd : PointReg) : Statement (.pldg pd) := by
  refine ⟨_, by rw [encode, opcodeOf_wordOf]; rfl, ?_⟩
  refine (wordOf_and _ _ _ _ _ 0xFF 0xC 0xF 0xF 0x1FF 7).trans ?_
  rw [pointBits_and_high]; rfl

theorem zinit : Statement .zinit := ⟨_, rfl, rfl⟩

theorem zgen : Statement .zgen := ⟨_, rfl, rfl⟩

theorem zxor (n : BitVec 3) : Statement (.zxor n) := by
  refine ⟨_, by rw [encode, opcodeOf_wordOf]; rfl, ?_⟩
  exact (wordOf_and _ _ _ _ _ 0xFF 0xF 0xF 0xF 0x1FF 0).trans (by simp; rfl)

end Sys2Proof.Laws.EncodedShape
end

