-- ==== Sys2Proof/Laws/Step.lean ====
section
/-! SUPPORT. Everything one step can do, said once: `step_cases`, and its parts for writes and completions. -/

namespace Sys2Proof.Machine

@[simp] theorem dropInput_nil {s : State} (h : s.inputs = []) : s.dropInput = s := by
  cases s; simp only at h; subst h; rfl

theorem admitAccess_eq_next {off size : Nat} {t t' : State} (h : admitAccess off size t = .next t') :
    size = 4 ∧ off % 4 = 0 ∧ off ≤ 0xFFC ∧ t' = t := by
  simp only [admitAccess] at h
  split at h
  · cases h
  · split at h
    · cases h
    · split at h
      · cases h
      · cases h
        exact ⟨by omega, by omega, by omega, rfl⟩

/-- One step is: nothing, with no command in flight; the completion of the command in flight; a read; a write; a reset.
Each acts on the state whose first input, if there is one, has been taken. -/
theorem step_cases {s t : State} (h : step s = .next t) :
    (s.inflight = false ∧ t = s.dropInput) ∨
    (s.inflight = true ∧ completeCommand s.dropInput = .next t) ∨
    (∃ off, t = readWord s.dropInput off) ∨
    (∃ off v, t = writeWord s.dropInput off v) ∨
    t = s.dropInput.blockReset := by
  have turn : ∀ s0 : State, s0.inflight = s.inflight → engineTurn s0 = .next t →
      (s.inflight = false ∧ t = s0) ∨ (s.inflight = true ∧ completeCommand s0 = .next t) := by
    intro s0 hs0 h
    simp only [engineTurn, hs0] at h
    split at h
    · exact .inr ⟨by assumption, h⟩
    · exact .inl ⟨by simpa using ‹¬ s.inflight = true›, by simpa using h.symm⟩
  simp only [step] at h
  split at h
  · rename_i hin
    rw [dropInput_nil hin]
    rcases turn s rfl h with h | h
    · exact .inl h
    · exact .inr (.inl h)
  · rename_i e rest hin
    cases e with
    | memRead off size => exact .inr (.inr (.inl ⟨off, (admitAccess_eq_next h).2.2.2⟩))
    | memWrite off size v => exact .inr (.inr (.inr (.inl ⟨off, v, (admitAccess_eq_next h).2.2.2⟩)))
    | hardReset => exact .inr (.inr (.inr (.inr (by simpa [runInput] using h.symm))))
    | engineTurn =>
      rcases turn s.dropInput rfl h with h | h
      · exact .inl h
      · exact .inr (.inl h)

/-- A completion is that of a legal command, or E_ILLEGAL. -/
theorem completeCommand_cases {s t : State} (h : completeCommand s = .next t) :
    (∃ i, decode s.cmdl = .ok i ∧ exec i s = .next t) ∨ ((∃ e, decode s.cmdl = .error e) ∧ t = s.complete .illegal) := by
  simp only [completeCommand] at h
  split at h
  · exact .inl ⟨_, by assumption, h⟩
  · exact .inr ⟨⟨_, by assumption⟩, by simpa using h.symm⟩

/-- A read changes only what the host has seen and the count of draws. -/
theorem readWord_eq (s : State) (off : Nat) : ∃ v n, readWord s off =
    { s with responses := (off, v) :: s.responses, draws := n } := by
  simp only [readWord]
  split
  · exact ⟨_, _, rfl⟩
  · exact ⟨_, s.draws, rfl⟩

/-- A write of a word is: ignored with WERR, a CTRL write, a STATUS write, an acceptance, a data write, or ignored. -/
theorem writeWord_cases (s : State) (off : Nat) (v : Word) :
    (s.inflight = true ∧ writeWord s off v = s.markWerr) ∨
    writeWord s off v = s.blockReset ∨ (∃ b, writeWord s off v = s.setIe b) ∨
    writeWord s off v = s.writeStatus v ∨
    (s.inflight = false ∧ windowAt off = .cmd ∧ writeWord s off v = s.accept v) ∨
    (s.inflight = false ∧ ((∃ w, writeWord s off v = s.setDin w) ∨ (∃ j w, writeWord s off v = s.setKey j w) ∨
      (∃ j w, writeWord s off v = s.setIv j w) ∨ (∃ i w, writeWord s off v = s.setGpr i w) ∨
      ∃ i w, writeWord s off v = s.setPoint i w)) ∨
    writeWord s off v = s := by
  simp only [writeWord]
  split
  · rename_i hc
    rw [Bool.and_eq_true] at hc
    exact .inl ⟨hc.1, rfl⟩
  · rename_i hc
    cases hreg : windowAt off <;> simp only [hreg, WindowReg.lockedWhileBusy, Bool.and_true, Bool.and_false,
      Bool.not_eq_true, poke] at hc ⊢
    case ctrl =>
      simp only [State.writeCtrl]
      split
      · exact .inr (.inl rfl)
      · exact .inr (.inr (.inl ⟨_, rfl⟩))
    case status => exact .inr (.inr (.inr (.inl trivial)))
    case cmd => exact .inr (.inr (.inr (.inr (.inl ⟨hc, trivial, trivial⟩))))
    case din => exact .inr (.inr (.inr (.inr (.inr (.inl ⟨hc, .inl ⟨_, rfl⟩⟩)))))
    case key => exact .inr (.inr (.inr (.inr (.inr (.inl ⟨hc, .inr (.inl ⟨_, _, rfl⟩)⟩)))))
    case iv => exact .inr (.inr (.inr (.inr (.inr (.inl ⟨hc, .inr (.inr (.inl ⟨_, _, rfl⟩))⟩)))))
    case gpr => exact .inr (.inr (.inr (.inr (.inr (.inl ⟨hc, .inr (.inr (.inr (.inl ⟨_, _, rfl⟩)))⟩)))))
    case pointX => exact .inr (.inr (.inr (.inr (.inr (.inl ⟨hc, .inr (.inr (.inr (.inr ⟨_, _, rfl⟩)))⟩)))))
    case pointY => exact .inr (.inr (.inr (.inr (.inr (.inl ⟨hc, .inr (.inr (.inr (.inr ⟨_, _, rfl⟩)))⟩)))))
    case pointInf => exact .inr (.inr (.inr (.inr (.inr (.inl ⟨hc, .inr (.inr (.inr (.inr ⟨_, _, rfl⟩)))⟩)))))
    all_goals exact .inr (.inr (.inr (.inr (.inr (.inr trivial)))))

end Sys2Proof.Machine
end

