-- ==== Sys2Proof/Laws/Window.lean ====
section
/-! SUPPORT. The register window: the map of 20_memory R72 by register, and what an admitted access answers. -/

namespace Sys2Proof.Machine

theorem windowAt_key : ∀ j : Fin 4, windowAt (0x020 + 4 * j.val) = .key j := by decide

theorem windowAt_iv : ∀ j : Fin 4, windowAt (0x030 + 4 * j.val) = .iv j := by decide

theorem windowAt_gpr : ∀ (i : GenReg) (j : Fin 8), windowAt (0x100 + 0x20 * i.val + 4 * j.val) = .gpr i j := by decide

theorem windowAt_pointX : ∀ (i : PointReg) (j : Fin 8), windowAt (0x400 + 0x80 * i.val + 4 * j.val) = .pointX i j := by
  decide

theorem windowAt_pointY : ∀ (i : PointReg) (j : Fin 8), windowAt (0x420 + 0x80 * i.val + 4 * j.val) = .pointY i j := by
  decide

theorem windowAt_pointInf : ∀ i : PointReg, windowAt (0x440 + 0x80 * i.val) = .pointInf i := by decide

/-- An aligned word access in the window is admitted (R71). -/
theorem admitAccess_word {off : Nat} (t : State) (h4 : off % 4 = 0) (h : off ≤ 0xFFC) : admitAccess off 4 t = .next t := by
  simp only [admitAccess]
  rw [if_neg (by decide), if_neg (by omega), if_neg (by omega)]

/-- The offsets of the window's words are 4k for k < 1024: a property of the map is checked on them. -/
theorem exists_word {off : Nat} (h4 : off % 4 = 0) (hl : off ≤ 0xFFC) : ∃ k < 1024, off = 4 * k :=
  ⟨off / 4, by omega, by omega⟩

/-- The reserved ranges of the map (R72). -/
theorem windowAt_reserved {off : Nat} (h4 : off % 4 = 0) (hl : off ≤ 0xFFC)
    (h : off = 0x01C ∨ (0x040 ≤ off ∧ off < 0x100) ∨ (0x300 ≤ off ∧ off < 0x400) ∨
      (0x400 ≤ off ∧ off < 0x600 ∧ 0x44 ≤ (off - 0x400) % 0x80) ∨ 0x600 ≤ off) : windowAt off = .reserved := by
  obtain ⟨k, hk, rfl⟩ := exists_word h4 hl
  clear h4 hl
  revert k
  decide +kernel

/-- DIN, and everything from KEY on, is no control word of the map. -/
theorem windowAt_data {off : Nat} (h4 : off % 4 = 0) (hl : off ≤ 0xFFC) (h : off = 0x014 ∨ 0x020 ≤ off) :
    windowAt off ≠ .ctrl ∧ windowAt off ≠ .status ∧ windowAt off ≠ .cmd := by
  obtain ⟨k, hk, rfl⟩ := exists_word h4 hl
  clear h4 hl
  revert k
  decide +kernel

/-- The general register a write of one of its words leaves: that word, and the seven others as before (R75). -/
theorem poke_gpr_words (s : State) (v : Word) (i : GenReg) (j k : Fin 8) :
    wordGet (poke s v (.gpr i j)).gpr[i.val] k = if k = j then v else wordGet s.gpr[i.val] k := by
  simp only [poke, State.setGpr_gpr, Vector.getElem_set_self]
  split
  · rename_i h
    rw [h, wordGet_wordSet_same]
  · rename_i h
    exact wordGet_wordSet_other _ _ h

end Sys2Proof.Machine
end

