-- ==== Sys2Proof/Tests/Slice0.lean ====
section
/-! SUPPORT. The model's own tests: ill-formed terms, decoding, one step on small states with the values of
spec/95_test_vectors.md, and for every obligation with hypotheses a state that meets them (test_witness_<obligation>). -/

namespace Sys2Proof.Tests

-- One declaration after another: the long kernel evaluations below would otherwise hold many threads.
set_option Elab.async false

open Sys2Proof.Machine Sys2Proof.Safety

/-- The state a command leaves. -/
def after (i : Instr) (s : State) : State :=
  match exec i s with
  | .next t => t
  | .fault _ | .refused _ => s

/-- The state one step leaves. -/
def stepped (s : State) : State :=
  match step s with
  | .next t => t
  | .fault _ | .refused _ => s

/-- The state a host write of one word leaves. -/
def written (off : Nat) (v : Word) (s : State) : State :=
  match hostWrite s off 4 v with
  | .next t => t
  | .fault _ | .refused _ => s

/-- With no input left, a step answers a next state. -/
theorem step_stepped {s : State} (h : s.inputs = []) : step s = .next (stepped s) := by
  have : ∃ t, step s = .next t := by
    simp only [step, h, engineTurn, completeCommand]
    split
    · split
      · exact exec_next _ _
      · exact finish_next _ _
    · exact ⟨s, rfl⟩
  obtain ⟨t, ht⟩ := this
  simp [stepped, ht]

theorem exec_after (i : Instr) (s : State) : exec i s = .next (after i s) := by
  obtain ⟨t, h⟩ := exec_next i s
  simp [after, h]

/-- A word that does not decode is no command's. -/
theorem not_decoded {w : Word} (h : (decode w).toOption = none) (i : Instr) : decode w ≠ .ok i := by
  intro hc
  rw [hc] at h
  cases h

/-- The reset state with R[i] and R[j] set. -/
def withGpr (i : GenReg) (a : Nat) (j : GenReg) (b : Nat) : State :=
  (State.reset.setGpr i (BitVec.ofNat 256 a)).setGpr j (BitVec.ofNat 256 b)

def gx : U256 := 0x32C4AE2C1F1981195F9904466A39C9948FE30BBFF2660BE1715A4589334C74C7

def gy : U256 := 0xBC3736A2F4F6779C59BDCEE36B692153D0A9877CC62A474002DF32E52139F0A0

/-- Y0 of 95_test_vectors 2.4: (0, Y0) is on the curve. -/
def y0 : U256 := 0xFD4511E81736A60F07E88A83D6CF5A167FAE6D1A9C9330E76E232E00F5CDC154

/-- The reset state with G in P[0]. -/
def withG : State := State.reset.setPoint 0 ⟨gx, gy, false⟩

/-- The reset state after ZINIT (KEY = IV = 0), with DIN set. -/
def withZuc (din : Word) : State := after .zinit (State.reset.setDin din)

theorem withZuc_eq (din : Word) : withZuc din =
    ((State.reset.setDin din).setZucReady (zucInit State.reset.key State.reset.iv)).complete .ok := by
  simp [withZuc, after, exec, execZinit]

/-! ### Well-formedness (30_encoding R104): the one check refuses 0, 5, 6 and 7 -/

theorem test_wellFormed_refuses_counts :
    (∀ n ∈ [(0 : BitVec 3), 5, 6, 7], (Instr.zxor n).wellFormed = false) ∧
    ∀ n ∈ [(1 : BitVec 3), 2, 3, 4], (Instr.zxor n).wellFormed = true := by decide

/-! ### Decoding (30_encoding R102, R110, 95_test_vectors 2.1), each word written out in its fields -/

/-- OPC 0001xxxx, A, B, C, zero, N: the field commands. -/
theorem test_decode_field :
    decode 0b00010000_0011_0001_0010_000000000_000 = .ok (.fadd 3 1 2) ∧
    decode 0b00010001_0000_1111_1111_000000000_000 = .ok (.fsub 0 15 15) ∧
    decode 0b00010010_0100_0100_0100_000000000_000 = .ok (.fmul 4 4 4) ∧
    decode 0b00010011_0101_0100_0000_000000000_000 = .ok (.fsqr 5 4) ∧
    decode 0b00010100_0110_0101_0000_000000000_000 = .ok (.finv 6 5) := by decide

theorem test_decode_point :
    decode 0b00100000_0010_0000_0001_000000000_000 = .ok (.padd 2 0 1) ∧
    decode 0b00100001_0011_0011_0000_000000000_000 = .ok (.pdbl 3 3) ∧
    decode 0b00100010_0010_1001_0001_000000000_000 = .ok (.pmul 2 9 1) ∧
    decode 0b00100011_0000_0001_0000_000000000_000 = .ok (.pchk 1) ∧
    decode 0b00100100_0001_0000_0000_000000000_000 = .ok (.pldg 1) := by decide

theorem test_decode_zuc_and_control :
    decode 0b00110000_0000_0000_0000_000000000_000 = .ok .zinit ∧
    decode 0b00110001_0000_0000_0000_000000000_000 = .ok .zgen ∧
    decode 0b00110010_0000_0000_0000_000000000_100 = .ok (.zxor 4) ∧
    decode 0b00000000_0000_0000_0000_000000000_000 = .ok .nop := by decide

/-- The illegal words of 95_test_vectors 2.1, each rejected by name. -/
theorem test_decode_rejects :
    decode 0x10312001 = .error (.nonZeroBits "FADD") ∧ decode 0x13541000 = .error (.nonZeroBits "FSQR") ∧
    decode 0x20401000 = .error (.nonZeroBits "PADD") ∧ decode 0x21340000 = .error (.nonZeroBits "PDBL") ∧
    decode 0x23040000 = .error (.nonZeroBits "PCHK") ∧ decode 0x30000001 = .error (.nonZeroBits "ZINIT") ∧
    decode 0x00000001 = .error (.nonZeroBits "NOP") ∧ decode 0x32000000 = .error (.badByteCount 0) ∧
    decode 0x32000005 = .error (.badByteCount 5) ∧ decode 0x15000000 = .error (.reservedOpcode 0x15) ∧
    decode 0xFFFFFFFF = .error (.reservedOpcode 0xFF) := by decide

/-- The words of the table as the host numbers them, and the step that runs one as the first after reset. -/
theorem test_decodeTableWord : decodeTableWord 32 0x22100000 = some (.pmul 1 0 0) ∧ decodeTableWord 32 0x32000000 = none := by
  decide

theorem test_withFetchWord_runs : statusWord (stepped (State.reset.withFetchWord 32 0x31000000)) = 0x00000506 := by
  decide +kernel

/-! ### The commands (95_test_vectors 2.3 to 2.8) -/

/-- B1: NOP clears LASTERR and keeps the sticky ERR. -/
theorem test_nop_keeps_err : statusWord (after .nop { State.reset with lastErr := 3, err := true, done := true }) = 6 := by
  decide +kernel

/-- F3. -/
theorem test_fadd_wraps : (after (.fadd 3 1 2) (withGpr 1 (fieldPrime - 1) 2 (fieldPrime - 1))).gpr[3] =
    0xFFFFFFFEFFFFFFFFFFFFFFFFFFFFFFFFFFFFFFFF00000000FFFFFFFFFFFFFFFD := by decide +kernel

/-- F27, with R3 = 9 kept. -/
theorem test_fadd_range : let t := after (.fadd 3 1 2) (withGpr 1 fieldPrime 3 9)
    t.gpr[3] = 9 ∧ statusWord t = 0x206 := by decide +kernel

/-- F7. -/
theorem test_fsub_borrows : (after (.fsub 3 1 2) (withGpr 1 0 2 1)).gpr[3] =
    0xFFFFFFFEFFFFFFFFFFFFFFFFFFFFFFFFFFFFFFFF00000000FFFFFFFFFFFFFFFE := by decide +kernel

/-- F28. -/
theorem test_fsub_range : let t := after (.fsub 3 1 2) (withGpr 2 (2 ^ 256 - 1) 3 9)
    t.gpr[3] = 9 ∧ statusWord t = 0x206 := by decide +kernel

/-- F15: no bit of the product is lost before the reduction. -/
theorem test_fmul_exact : (after (.fmul 3 1 2) (withGpr 1 (2 ^ 128) 2 (2 ^ 128))).gpr[3] =
    0x0000000100000000000000000000000000000000FFFFFFFF0000000000000001 := by decide +kernel

/-- F29: the source is the destination. -/
theorem test_fmul_range : (after (.fmul 1 1 1) (withGpr 1 fieldPrime 2 0)).gpr[1] = BitVec.ofNat 256 fieldPrime := by
  decide +kernel

/-- F18. -/
theorem test_fsqr : (after (.fsqr 5 4) (withGpr 4 (2 ^ 255) 5 0)).gpr[5] =
    0xC000000040000000800000004000000040000000000000008000000080000000 := by decide +kernel

/-- F30: E_RANGE for p, the first value out of range, with R5 = 7 kept. -/
theorem test_fsqr_range : let t := after (.fsqr 5 4) (withGpr 4 fieldPrime 5 7)
    t.gpr[5] = 7 ∧ statusWord t = 0x206 := by decide +kernel

/-- F22. -/
theorem test_finv : (after (.finv 6 5) (withGpr 5 3 6 0)).gpr[6] =
    0x55555554FFFFFFFFFFFFFFFFFFFFFFFFFFFFFFFFAAAAAAAB0000000000000000 := by decide +kernel

/-- F26 and F31: zero is E_NOINV, p is E_RANGE. -/
theorem test_finv_errors : statusWord (after (.finv 6 5) (withGpr 5 0 6 7)) = 0x306 ∧
    statusWord (after (.finv 6 5) (withGpr 5 fieldPrime 6 7)) = 0x206 ∧
    (after (.finv 6 5) (withGpr 5 fieldPrime 6 7)).gpr[6] = 7 := by decide +kernel

/-- A5: P = Q is detected by the values, with different registers. -/
theorem test_padd_equal : ((after (.padd 2 0 1) (withG.setPoint 1 ⟨gx, gy, false⟩)).pts[2]).x =
    0x56CEFD60D7C87C000D58EF57FA73BA4D9C0DFA08C08A7331495C2E1DA3F2BD52 := by decide +kernel

/-- A8 and A10: a triple with inf = 1 is O; a coordinate of at least p is not on the curve. -/
theorem test_padd_sources :
    (after (.padd 2 0 1) ((withG.setPoint 0 ⟨0x1234, 0x5678, true⟩).setPoint 1 ⟨gx, gy, false⟩)).pts[2] = ⟨gx, gy, false⟩ ∧
    statusWord (after (.padd 2 0 1) (withG.setPoint 1 ⟨BitVec.ofNat 256 fieldPrime, y0, false⟩)) = 0x406 := by decide +kernel

/-- D2's first half: 2G from G in place. -/
theorem test_pdbl : (after (.pdbl 0 0) withG).pts[0] =
    ⟨0x56CEFD60D7C87C000D58EF57FA73BA4D9C0DFA08C08A7331495C2E1DA3F2BD52,
      0x31B7E7E6CC8189F668535CE0F8EAF1BD6DE84C182F6C8E716F780D3A970A23C3, false⟩ := by decide +kernel

/-- D3 and D4. -/
theorem test_pdbl_edges : (after (.pdbl 1 2) withG).pts[1] = ⟨0, 0, true⟩ ∧
    statusWord (after (.pdbl 1 0) (withG.setPoint 0 ⟨gx, gy + 1, false⟩)) = 0x406 := by decide +kernel

/-- K1: the sample key pair of the SM2 standard (95_test_vectors 1.2). -/
theorem test_pmul_sample_key :
    (after (.pmul 1 0 0)
      (withG.setGpr 0 0x3945208F7B2144B13F36E38AC6D39F95889393692860B51A42FB81EF4DF7C5B8)).pts[1] =
    ⟨0x09F9DF311E5421A150DD7D161E4BC5C672179FAD1833FC076BB08FF356F35020,
      0xCCEA490CE26775A52DC6EA718CC1AA600AED05FBF35E084A6632F6072DA9AD13, false⟩ := by decide +kernel

/-- M1, M4 and M10. -/
theorem test_pmul_small : (after (.pmul 1 0 0) withG).pts[1] = ⟨0, 0, true⟩ ∧
    ((after (.pmul 1 0 0) (withG.setGpr 0 3)).pts[1]).x =
      0xA97F7CD4B3C993B4BE2DAA8CDB41E24CA13F6BD945302244E26918F1D0509EBF ∧
    statusWord (after (.pmul 1 0 0) (withG.setPoint 0 ⟨gx, gy + 1, false⟩)) = 0x406 := by decide +kernel

/-- C1, C2 and C3. -/
theorem test_pchk : statusWord (after (.pchk 0) withG) = 0x62 ∧ statusWord (after (.pchk 1) withG) = 0x22 ∧
    statusWord (after (.pchk 1) (withG.setPoint 1 ⟨gx, gy + 1, false⟩)) = 2 := by decide +kernel

/-- C4 and C5. -/
theorem test_pchk_coordinates :
    statusWord (after (.pchk 1) (withG.setPoint 1 ⟨BitVec.ofNat 256 fieldPrime, y0, false⟩)) = 2 ∧
    statusWord (after (.pchk 1) (withG.setPoint 1 ⟨0, y0, false⟩)) = 0x62 := by decide +kernel

/-- G1. -/
theorem test_pldg : (after (.pldg 3) State.reset).pts[3] = ⟨gx, gy, false⟩ := by decide +kernel

/-- Z6, and the ZUC state after ZINIT of set Z1: S[0], S[15], R1, R2 (95_test_vectors 2.6). -/
theorem test_zinit : let t := after .zinit State.reset
    statusWord t = 0x12 ∧ t.zuc.cells[0] = 0x747CA0C4 ∧ t.zuc.cells[15] = 0x7F08E141 ∧ t.zuc.r1 = 0x3512BF50 ∧
    t.zuc.r2 = 0xA0920453 := by decide +kernel

/-- Set Z3: the byte order of KEY and IV. -/
theorem test_zinit_key_bytes : (after .zgen (after .zinit { State.reset with
      key := #v[0x3d4c4be9, 0x6a82fdae, 0xb58f641d, 0xb17b455b],
      iv := #v[0x84319aa8, 0xde6915ca, 0x1f6bda6b, 0xfbd8c766] })).zout = 0x14F1C272 := by decide +kernel

/-- Set Z1: the first two words. -/
theorem test_zgen : let t := after .zgen (withZuc 0)
    t.zout = 0x27BEDE74 ∧ (after .zgen t).zout = 0x018082DA := by decide +kernel

/-- Z4. -/
theorem test_zgen_not_initialised : statusWord (after .zgen State.reset) = 0x506 := by decide +kernel

/-- X1 and X8: counts 3 and 1, and then 4 (X2) and 2 (X8) from the second word of the keystream. -/
theorem test_zxor : let t := after (.zxor 3) (withZuc 0x11223344)
    let u := after (.zxor 1) (withZuc 0x11000000)
    t.dout = 0x369CED00 ∧ u.dout = 0x36000000 ∧ (after (.zxor 4) (t.setDin 0xAABBCCDD)).dout = 0xAB3B4E07 ∧
    (after (.zxor 2) (u.setDin 0x11220000)).dout = 0x10A20000 := by decide +kernel

/-- Z5, and an illegal count with ZRDY = 0 (60_exceptions R304). -/
theorem test_zxor_errors : statusWord (after (.zxor 4) State.reset) = 0x506 ∧
    statusWord (after (.zxor 5) State.reset) = 0x106 := by decide +kernel

/-! ### The window (95_test_vectors 2.2), acceptance and reset -/

/-- H6: word 0 is the most significant. -/
theorem test_window_words : let s := State.reset.setGpr 3 gx
    peek s (windowAt 0x160) = 0x32C4AE2C ∧ peek s (windowAt 0x164) = 0x1F198119 ∧ peek s (windowAt 0x17C) = 0x334C74C7 := by
  decide +kernel

/-- H7 and H8. -/
theorem test_window_point : let s := State.reset.setPoint 1 ⟨gx, gy, false⟩
    peek s (windowAt 0x480) = 0x32C4AE2C ∧ peek s (windowAt 0x4BC) = 0x2139F0A0 ∧
    peek (written 0x4C0 0xFFFFFFFE s) (windowAt 0x4C0) = 0 := by decide +kernel

/-- H11 and H12. -/
theorem test_status_w1c :
    let s := { State.reset with done := true, err := true, werr := true, lastErr := 5 }
    statusWord s = 0x50E ∧ statusWord (written 0x008 2 s) = 0x50C ∧ statusWord (written 0x008 0xFFFFFFFF s) = 0x500 := by
  decide +kernel

/-- H9 and H10, and H14: a CTRL write while busy. -/
theorem test_ctrl : written 0x004 3 { State.reset with ie := true, err := true } = State.reset ∧
    peek (written 0x004 1 State.reset) (windowAt 0x004) = 1 ∧
    (written 0x004 1 (State.reset.accept 0)).ie = true ∧ statusWord (written 0x004 1 (State.reset.accept 0)) = 1 := by
  decide +kernel

/-- B5 and R300: a CMD write accepted with DONE = 1, and one ignored with WERR. -/
theorem test_cmd_write : statusWord (written 0x00C 0 { State.reset with done := true }) = 1 ∧
    statusWord (written 0x00C 0 (written 0x00C 0 State.reset)) = 9 := by decide +kernel

/-- H13: a NOP in flight, a write to DIN ignored, the completion. -/
theorem test_busy_write : let s := written 0x014 0x12345678 (written 0x00C 0 State.reset)
    s.din = 0 ∧ statusWord s = 0x9 ∧ statusWord (stepped s) = 0xA := by decide +kernel

/-- H15: a reset abandons the command in flight. -/
theorem test_reset_abandons : let s := written 0x004 2 (written 0x00C 0x22100000 State.reset)
    statusWord s = 0 ∧ s.inflight = false ∧ stepped s = s := by decide +kernel

/-- R306: a CMD write meeting the previous completion, in both orders. -/
theorem test_both_orders :
    let s := written 0x00C 0 State.reset
    statusWord (stepped (stepped { s with inputs := [.memWrite 0x00C 4 0, .engineTurn] })) = 0xA ∧
    statusWord (stepped (stepped { s with inputs := [.engineTurn, .memWrite 0x00C 4 0] })) = 0x1 := by decide +kernel

/-! ### Witnesses: for every obligation with hypotheses, a state and operands that meet them together -/

/-- A command in flight, no input left. -/
def inFlight (w : Word) : State := State.reset.accept w

theorem test_witness_DecodeInvertsEncode : (Instr.zxor 1).wellFormed = true ∧ (Instr.zxor 4).wellFormed = true := by decide

theorem test_witness_EncodeInvertsDecode : decode 0x320003FF ≠ .ok .nop ∧ decode 0x22291000 = .ok (.pmul 2 9 1) := by decide

/-- Each range of reserved opcodes at its two ends; both sides of the equivalence are met by FADD's word. -/
theorem test_witness_WordsFallInOneClass :
    ∀ opc ∈ [(0x01 : BitVec 8), 0x0F, 0x15, 0x1F, 0x25, 0x2F, 0x33, 0xFF],
      decode (wordOf opc 0 0 0 0) = .error (.reservedOpcode opc) := by decide

theorem test_witness_StepRunsDecodedCommand :
    let s := inFlight 0x10312000
    s.inflight = true ∧ decode s.cmdl = .ok (.fadd 3 1 2) ∧ s.inputs = [] ∧
    { s with inputs := [.engineTurn] }.inputs = .engineTurn :: [] := by decide +kernel

theorem test_witness_WrittenCommandRuns :
    let s := { State.reset with inputs := [.memWrite 0x00C 4 (encode (.pchk 1)), .engineTurn] }
    s.inflight = false ∧ (Instr.pchk 1).wellFormed = true ∧
    s.inputs = .memWrite 0x00C 4 (encode (.pchk 1)) :: .engineTurn :: [] := by decide +kernel

theorem test_witness_IllegalWordCompletesWithIllegal :
    State.reset.inflight = false ∧ ∀ i, decode 0x15000000 ≠ .ok i := ⟨rfl, not_decoded (by decide)⟩

theorem test_witness_BusyEndsInOneStep : (inFlight 0x31000000).inflight = true ∧ (inFlight 0xFFFFFFFF).inputs = [] := by
  decide +kernel

theorem test_witness_CompletionCodesByCommand : ∀ n ∈ [(1 : BitVec 3), 4], (Instr.zxor n).wellFormed = true := by decide

theorem test_witness_ErrorsMakeNoPartialResult :
    exec .zgen State.reset = .next (after .zgen State.reset) ∧ (after .zgen State.reset).lastErr ≠ 0 :=
  ⟨exec_after _ _, by decide +kernel⟩

/-- The hypotheses of `MalformedIsHarmless`, for each opcode the statements name; 0x00000001 meets NopOnlyCompletes' own. -/
theorem test_witness_MalformedIsHarmless :
    (∀ w ∈ [(0x00000001 : Word), 0x23040000, 0x24000001, 0x30000001, 0x32000005],
      (inFlight w).inflight = true ∧ (inFlight w).cmdl = w) ∧
    opcodeOf 0x00000001 = 0x00 ∧ opcodeOf 0x23040000 = 0x23 ∧ opcodeOf 0x24000001 = 0x24 ∧ opcodeOf 0x30000001 = 0x30 ∧
    opcodeOf 0x32000005 = 0x32 ∧ (decode 0x00000001).toOption = none ∧ (decode 0x23040000).toOption = none ∧
    (decode 0x24000001).toOption = none ∧ (decode 0x30000001).toOption = none ∧ (decode 0x32000005).toOption = none :=
  ⟨fun _ _ => ⟨rfl, rfl⟩, by decide⟩

theorem test_witness_NopOnlyCompletes : opcodeOf 0x00000001 = 0x00 ∧ (0x00000001 : Word) ≠ 0 := by decide

/-- FINV's uniqueness clause: x = 0x5555…0 against a = 3 (95_test_vectors F22). -/
theorem test_witness_FinvInvertsModP :
    ∀ x ∈ [0x55555554FFFFFFFFFFFFFFFFFFFFFFFFFFFFFFFFAAAAAAAB0000000000000000],
      1 ≤ x ∧ x < fieldPrime ∧ 3 * x % fieldPrime = 1 := by decide +kernel

theorem test_witness_CommandsKeepTheWindow :
    exec (.fadd 3 1 2) State.reset = .next (after (.fadd 3 1 2) State.reset) := exec_after _ _

/-- A point of the curve with y ≠ 0. -/
theorem test_witness_PdblWritesTheDouble : onCurve (.affine 0 y0.toNat) = true := by decide +kernel

theorem test_witness_PchkReportsTheCheck : (after (.pchk 0) withG).pkv = true := by decide +kernel

theorem test_witness_MultiplesRepeatWithTheOrder : onCurve basePoint = true ∧ basePoint ≠ .infinity := by decide +kernel

/-- dA = R[0] = 2, dB = R[1] = 3, from G in P[0]. -/
theorem test_witness_SharedPointsAgree :
    let s := (withG.setGpr 0 2).setGpr 1 3
    let s1 := after (.pmul 1 1 0) s
    let s2 := after (.pmul 1 0 0) s
    onCurve (readPoint s 0) = true ∧ exec (.pmul 1 1 0) s = .next s1 ∧ exec (.pmul 1 0 1) s1 = .next (after (.pmul 1 0 1) s1) ∧
    exec (.pmul 1 0 0) s = .next s2 ∧ exec (.pmul 1 1 1) s2 = .next (after (.pmul 1 1 1) s2) :=
  ⟨by decide +kernel, exec_after _ _, exec_after _ _, exec_after _ _, exec_after _ _⟩

/-- d = 1 and d = n - 1, the ends of the range. -/
theorem test_witness_GeneratedKeyPassesTheCheck : ∀ d ∈ [1, groupOrder - 1],
    let s := State.reset.setGpr 0 (BitVec.ofNat 256 d)
    let s1 := after (.pldg 0) s
    let s2 := after (.pmul 1 0 0) s1
    1 ≤ (s.gpr[0]).toNat ∧ (s.gpr[0]).toNat < groupOrder ∧ exec (.pldg 0) s = .next s1 ∧ exec (.pmul 1 0 0) s1 = .next s2 ∧
    exec (.pchk 1) s2 = .next (after (.pchk 1) s2) := by
  intro d hd
  refine ⟨?_, ?_, exec_after _ _, exec_after _ _, exec_after _ _⟩ <;> revert d <;> decide +kernel

theorem test_witness_PointAdditionIsAGroupLaw :
    onCurve basePoint = true ∧ onCurve (negPoint basePoint) = true ∧ onCurve .infinity = true := by decide +kernel

theorem test_witness_PointCommandsStoreCurvePoints :
    exec (.pldg 2) State.reset = .next (after (.pldg 2) State.reset) ∧
    (after (.pldg 2) State.reset).pts[2] ≠ State.reset.pts[2] := ⟨exec_after _ _, by decide +kernel⟩

theorem test_witness_KeystreamIsAFunctionOfKeyAndIv :
    (State.reset.key = (withG).key ∧ State.reset.iv = withG.iv ∧ exec .zinit State.reset = .next (after .zinit State.reset) ∧
      exec .zinit withG = .next (after .zinit withG)) ∧
    (withZuc 0).zuc = (withZuc 1).zuc ∧ (withZuc 0).zrdy = (withZuc 1).zrdy ∧ (withZuc 0).zrdy = true ∧
    exec .zgen (withZuc 0) = .next (after .zgen (withZuc 0)) ∧
    exec (.zxor 3) (withZuc 1) = .next (after (.zxor 3) (withZuc 1)) :=
  ⟨⟨rfl, rfl, exec_after _ _, exec_after _ _⟩, by simp [withZuc_eq], by simp [withZuc_eq], by simp [withZuc_eq],
    exec_after _ _, exec_after _ _⟩

/-- X1 and its decryption. -/
theorem test_witness_ZxorTwiceRestoresTheBlock :
    let s1 := withZuc 0x11223344
    let t1 := after (.zxor 3) s1
    let s2 := withZuc 0x369CED00
    s1.zrdy = true ∧ s2.zrdy = true ∧ s1.zuc = s2.zuc ∧ exec (.zxor 3) s1 = .next t1 ∧ s2.din = t1.dout ∧
    exec (.zxor 3) s2 = .next (after (.zxor 3) s2) :=
  ⟨by simp [withZuc_eq], by simp [withZuc_eq], by simp [withZuc_eq], exec_after _ _, by decide +kernel, exec_after _ _⟩

/-- Every clause of the offsets locked while BUSY = 1, at its two ends. -/
theorem test_witness_BusyWritesOnlySetWerr : (inFlight 0).inflight = true ∧
    ∀ off ∈ [0x00C, 0x014, 0x020, 0x03C, 0x100, 0x2FC, 0x400, 0x440, 0x580, 0x5C0],
      off % 4 = 0 ∧ (written off 1 (inFlight 0)).werr = true := by decide +kernel

/-- Every clause of the ignored offsets, at its two ends. -/
theorem test_witness_ReservedAndReadOnlyWritesIgnored :
    ∀ off ∈ [0x000, 0x010, 0x018, 0x01C, 0x040, 0x0FC, 0x300, 0x3FC, 0x444, 0x47C, 0x5C4, 0x5FC, 0x600, 0xFFC],
      off % 4 = 0 ∧ off ≤ 0xFFC ∧ written off 0xFFFFFFFF State.reset = State.reset ∧
      written off 0xFFFFFFFF (inFlight 0) = inFlight 0 := by decide +kernel

/-- The reserved offsets at their ends read 0. -/
theorem test_witness_ReadsChangeNothing :
    ∀ off ∈ [0x01C, 0x040, 0x0FC, 0x300, 0x3FC, 0x444, 0x47C, 0x5C4, 0x5FC, 0x600, 0xFFC],
      off % 4 = 0 ∧ off ≤ 0xFFC ∧ peek withG (windowAt off) = 0 ∧ (windowAt off).drawnWhileBusy = false := by decide +kernel

/-- Every clause of the drawn offsets, at its two ends. -/
theorem test_witness_BusyDataReadsAreDraws : (inFlight 0).inflight = true ∧
    ∀ off ∈ [0x010, 0x018, 0x100, 0x2FC, 0x400, 0x440, 0x580, 0x5C0],
      off % 4 = 0 ∧ (windowAt off).drawnWhileBusy = true ∧ (readWord (inFlight 0) off).draws = 1 := by decide +kernel

/-- BUSY = 0, a word of R and a word of P; and the reserved ranges at their ends. -/
theorem test_witness_ReadsAnswerTheRegisters : withG.inflight = false ∧ peek withG (windowAt 0x400) = 0x32C4AE2C ∧
    peek (State.reset.setGpr 15 7) (windowAt 0x2FC) = 7 ∧
    ∀ off ∈ [0x01C, 0x040, 0x0FC, 0x300, 0x3FC, 0x444, 0x47C, 0x5C4, 0x5FC, 0x600, 0xFFC],
      off % 4 = 0 ∧ off ≤ 0xFFC ∧ peek withG (windowAt off) = 0 := by decide +kernel

theorem test_witness_DataWritesLandWhole : withG.inflight = false ∧ (written 0x03C 7 withG).iv[3] = 7 ∧
    ((written 0x43C 7 withG).pts[0]).y.extractLsb' 0 32 = 7 ∧ (written 0x2FC 7 withG).gpr[15] = 7 := by decide +kernel

theorem test_witness_GeneralRegisterWordsReadBack : State.reset.inflight = false ∧
    (written (0x100 + 0x20 * 15 + 4 * 7) 7 State.reset).gpr[15] = 7 := by decide +kernel

/-- The two clauses of the offsets, at their ends, and KEY words the write at 0x020 is not. -/
theorem test_witness_DataWritesChangeOnlyTheirWord : State.reset.inflight = false ∧
    hostWrite State.reset 0x014 4 5 = .next (written 0x014 5 State.reset) ∧
    hostWrite State.reset 0x020 4 5 = .next (written 0x020 5 State.reset) ∧
    hostWrite State.reset 0xFFC 4 5 = .next (written 0xFFC 5 State.reset) ∧
    windowAt 0x020 = .key 0 ∧ windowAt 0x020 ≠ .key 1 ∧ windowAt 0x020 ≠ .status :=
  ⟨rfl, rfl, rfl, rfl, by decide, by decide, by decide⟩

/-- The two cases of OnlyWordAccessesReachTheBlock, at the edges. -/
theorem test_witness_OnlyWordAccessesReachTheBlock :
    hostWrite State.reset 0xFFC 4 1 = .next State.reset ∧ hostRead State.reset 0x1000 4 = .refused (.outsideWindow 0x1000) ∧
    hostRead State.reset 0x002 4 = .refused (.misaligned 0x002) ∧ hostRead State.reset 0x000 2 = .refused (.accessSize 2) :=
  ⟨rfl, rfl, rfl, rfl⟩

theorem test_witness_StatusWriteClearsNamedBits : (2 : Word).getLsbD 1 = true := by decide

/-- B2 to B5: IE set with DONE = 1, masked, acknowledged, the next acceptance; the four clauses of IrqFollowsEnableAndDone. -/
theorem test_witness_IrqFollowsEnableAndDone :
    let s := after .nop State.reset
    (1 : Word).getLsbD 1 = false ∧ hostWrite s 0x004 4 1 = .next (written 0x004 1 s) ∧ (written 0x004 1 s).irq = true ∧
    (2 : Word).getLsbD 1 = true ∧ hostWrite s 0x004 4 2 = .next (written 0x004 2 s) ∧
    hostWrite s 0x008 4 2 = .next (written 0x008 2 s) ∧
    s.inflight = false ∧ hostWrite s 0x00C 4 0 = .next (written 0x00C 0 s) ∧ exec .nop s = .next (after .nop s) :=
  ⟨by decide, rfl, by decide +kernel, by decide, rfl, rfl, by decide +kernel, rfl, exec_after _ _⟩

theorem test_witness_ResetFromEitherSource :
    { inFlight 0 with inputs := [.hardReset] }.inputs = .hardReset :: [] ∧
    (3 : Word).getLsbD 1 = true ∧ { inFlight 0 with inputs := [.memWrite 0x004 4 3] }.inputs = .memWrite 0x004 4 3 :: [] :=
  ⟨rfl, by decide, rfl⟩

/-- A state with ZRDY = 1 that meets the invariants, and its step: a ZGEN in flight completes. -/
theorem test_witness_StepKeepsInvariants : let s := (withZuc 0).accept 0x31000000
    s.zrdy = true ∧ CellsNonZero s ∧ LastErrDefined s ∧ NotBusyAndDone s ∧ ZucClearUntilReady s ∧
    step s = .next (stepped s) := by
  refine ⟨by simp [withZuc_eq], fun _ => by decide +kernel, show _ ≤ _ by decide +kernel, ?_, ?_, step_stepped ?_⟩
  · simp [NotBusyAndDone]
  · simp [ZucClearUntilReady, withZuc_eq]
  · simp [withZuc_eq, State.reset]

/-- ZRDY = 0 with a command in flight: the other side of CellsNonZero and ZucClearUntilReady. -/
theorem test_witness_StepKeepsZucClearUntilReady : let s := inFlight 0x31000000
    s.zrdy = false ∧ ZucClearUntilReady s ∧ step s = .next (stepped s) :=
  ⟨rfl, fun _ => ⟨rfl, rfl, rfl⟩, step_stepped rfl⟩

theorem test_witness_OnlyZucCommandsChangeTheZucState : let s := inFlight 0x30000000
    step s = .next (stepped s) ∧ (stepped s).zrdy ≠ s.zrdy := ⟨step_stepped rfl, by decide +kernel⟩

theorem test_witness_OnlyPchkChangesTheCheckFlags : let s := withG.accept 0x23000000
    step s = .next (stepped s) ∧ (stepped s).onc ≠ s.onc := ⟨step_stepped rfl, by decide +kernel⟩

theorem test_witness_OnlyCompletionChangesLastErr : let s := inFlight 0x31000000
    step s = .next (stepped s) ∧ (stepped s).lastErr ≠ s.lastErr ∧ s.err = false ∧ (stepped s).err = true :=
  ⟨step_stepped rfl, by decide +kernel, rfl, by decide +kernel⟩

theorem test_witness_SecretsCannotBeReadBack :
    (∃ t, hostRead withG 0x020 4 = .next t) ∧ hostRead withG 0x021 4 = .refused (.misaligned 0x021) := ⟨⟨_, rfl⟩, rfl⟩

end Sys2Proof.Tests
end

/-! The family of 10_state: what a step can do to the engine's own state, and the words STATUS and CTRL. -/

namespace Sys2Proof.Machine

open Sys2Proof.Safety

/-! ### What a command's writes leave unchanged -/

/-- The commands that draw on the ZUC unit (10_state R40, 42_zuc R234). -/
def IsZucCommand (i : Instr) : Prop :=
  i = .zinit ∨ i = .zgen ∨ ∃ n, i = .zxor n

/-- Which commands' writes `u` may differ from `s` in the check flags and in the ZUC unit; none touches ERR. -/
structure CommandFrame (i : Instr) (s u : State) : Prop where
  err : u.err = s.err
  check : CheckKept s u ∨ ∃ ps, i = .pchk ps
  zuc : ZucKept s u ∨ u.zrdy = true ∧ IsZucCommand i

theorem commandFrame_of_commandWrites {i : Instr} {s u : State} (h : CommandWrites s u i) : CommandFrame i s u := by
  cases i with
  | nop =>
    obtain rfl := h
    exact ⟨rfl, .inl ⟨rfl, rfl⟩, .inl ⟨rfl, rfl, rfl, rfl⟩⟩
  | fadd | fsub | fmul | fsqr | finv | padd | pdbl | pmul | pldg =>
    obtain ⟨_, -, rfl⟩ := h
    exact ⟨rfl, .inl ⟨rfl, rfl⟩, .inl ⟨rfl, rfl, rfl, rfl⟩⟩
  | pchk ps =>
    obtain rfl := h
    exact ⟨rfl, .inr ⟨ps, rfl⟩, .inl ⟨rfl, rfl, rfl, rfl⟩⟩
  | zinit =>
    obtain rfl := h
    exact ⟨rfl, .inl ⟨rfl, rfl⟩, .inr ⟨rfl, .inl rfl⟩⟩
  | zgen =>
    obtain ⟨hready, rfl⟩ := h
    exact ⟨rfl, .inl ⟨rfl, rfl⟩, .inr ⟨hready, .inr (.inl rfl)⟩⟩
  | zxor n =>
    obtain ⟨hready, rfl⟩ := h
    exact ⟨rfl, .inl ⟨rfl, rfl⟩, .inr ⟨hready, .inr (.inr ⟨n, rfl⟩)⟩⟩

/-! ### What a completion can do -/

/-- A completion is one with an error code and nothing but the bookkeeping, or one of a legal command with its writes. -/
theorem completeCommand_error_or_writes {s t : State} (h : completeCommand s = .next t) :
    (∃ c, c ≠ .ok ∧ t = s.complete c) ∨
    ∃ i u, decode s.cmdl = .ok i ∧ exec i s = .next t ∧ CommandFrame i s u ∧ t = u.complete .ok := by
  rcases completeCommand_cases h with ⟨i, hdec, hexec⟩ | ⟨-, ht⟩
  · rcases exec_cases hexec with herr | ⟨u, hu, ht⟩
    · exact .inl herr
    · exact .inr ⟨i, u, hdec, hexec, commandFrame_of_commandWrites hu, ht⟩
  · exact .inl ⟨.illegal, by decide, ht⟩

/-- Every completion clears BUSY and sets DONE (60_exceptions R301). -/
theorem completeCommand_idle_done {s t : State} (h : completeCommand s = .next t) :
    t.inflight = false ∧ t.done = true := by
  rcases completeCommand_error_or_writes h with ⟨c, -, rfl⟩ | ⟨i, u, -, -, -, rfl⟩ <;> exact ⟨rfl, rfl⟩

/-- A completion that touches the ZUC unit is a ZUC command's, and ZRDY = 1 after it (10_state R40). -/
theorem completeCommand_zuc {s t : State} (h : completeCommand s = .next t) :
    ZucKept s t ∨ t.zrdy = true ∧ ∃ i, decode s.cmdl = .ok i ∧ IsZucCommand i ∧ exec i s = .next t := by
  rcases completeCommand_error_or_writes h with ⟨c, -, rfl⟩ | ⟨i, u, hdec, hexec, hframe, rfl⟩
  · exact .inl (writesNothing_complete s c).zuc
  · rcases hframe.zuc with ⟨hzuc, hzrdy, hzout, hdout⟩ | ⟨hready, hi⟩
    · exact .inl ⟨hzuc, hzrdy, hzout, hdout⟩
    · exact .inr ⟨hready, i, hdec, hi, hexec⟩

/-- A completion that touches ONC or PKV is a PCHK's (10_state R41). -/
theorem completeCommand_check {s t : State} (h : completeCommand s = .next t) :
    CheckKept s t ∨ ∃ ps, decode s.cmdl = .ok (.pchk ps) ∧ exec (.pchk ps) s = .next t := by
  rcases completeCommand_error_or_writes h with ⟨c, -, rfl⟩ | ⟨i, u, hdec, hexec, hframe, rfl⟩
  · exact .inl (writesNothing_complete s c).check
  · rcases hframe.check with ⟨honc, hpkv⟩ | ⟨ps, rfl⟩
    · exact .inl ⟨honc, hpkv⟩
    · exact .inr ⟨ps, hdec, hexec⟩

/-- A completion that sets ERR leaves a code other than 0 in LASTERR (60_exceptions R301). -/
theorem completeCommand_lastErr_ne_zero {s t : State} (h : completeCommand s = .next t) (hs : s.err = false)
    (ht : t.err = true) : t.lastErr ≠ 0 := by
  rcases completeCommand_error_or_writes h with ⟨c, hc, rfl⟩ | ⟨i, u, -, -, hframe, rfl⟩
  · exact fun h0 => hc (code_bits_eq_zero.1 h0)
  · simp [hframe.err, hs] at ht

/-! ### What a step that neither completes nor resets can do -/

/-- What only a completion or a reset changes: the ZUC unit, the check flags and LASTERR stay, and ERR does not rise. -/
structure EngineKept (s t : State) : Prop where
  zuc : ZucKept s t
  check : CheckKept s t
  lastErr : t.lastErr = s.lastErr
  err : t.err = true → s.err = true

/-- An update that leaves ERR and the fields of `EngineKept` alone. -/
theorem engineKept_of_eq {s t : State} (hzuc : ZucKept s t) (hcheck : CheckKept s t) (hlast : t.lastErr = s.lastErr)
    (herr : t.err = s.err) : EngineKept s t :=
  ⟨hzuc, hcheck, hlast, fun h => herr ▸ h⟩

theorem engineKept_writeStatus (s : State) (v : Word) : EngineKept s (s.writeStatus v) :=
  ⟨⟨rfl, rfl, rfl, rfl⟩, ⟨rfl, rfl⟩, rfl, fun h => (Bool.and_eq_true_iff.1 h).1⟩

theorem engineKept_readWord (s : State) (off : Nat) : EngineKept s (readWord s off) := by
  obtain ⟨v, n, h⟩ := readWord_eq s off
  rw [h]
  exact engineKept_of_eq ⟨rfl, rfl, rfl, rfl⟩ ⟨rfl, rfl⟩ rfl rfl

/-- A host write resets the block or leaves what is the engine's. -/
theorem writeWord_resets_or_keeps (s : State) (off : Nat) (v : Word) :
    writeWord s off v = s.blockReset ∨ EngineKept s (writeWord s off v) := by
  rcases writeWord_cases s off v with ⟨-, h⟩ | h | ⟨b, h⟩ | h | ⟨-, -, h⟩ |
    ⟨-, ⟨w, h⟩ | ⟨j, w, h⟩ | ⟨j, w, h⟩ | ⟨i, w, h⟩ | ⟨i, w, h⟩⟩ | h <;> rw [h]
  case inr.inl => exact .inl rfl
  case inr.inr.inr.inl => exact .inr (engineKept_writeStatus s v)
  all_goals exact .inr (engineKept_of_eq ⟨rfl, rfl, rfl, rfl⟩ ⟨rfl, rfl⟩ rfl rfl)

theorem isReset_blockReset (s : State) : IsReset s s.dropInput.blockReset := ⟨State.reset.cmdl, rfl⟩

/-- A step completes the command in flight, resets the block, or leaves what is the engine's. -/
theorem step_completes_resets_or_keeps {s t : State} (h : step s = .next t) :
    (s.inflight = true ∧ completeCommand s.dropInput = .next t) ∨ IsReset s t ∨ EngineKept s.dropInput t := by
  rcases step_cases h with ⟨-, rfl⟩ | hcomplete | ⟨off, rfl⟩ | ⟨off, v, rfl⟩ | rfl
  · exact .inr (.inr (engineKept_of_eq ⟨rfl, rfl, rfl, rfl⟩ ⟨rfl, rfl⟩ rfl rfl))
  · exact .inl hcomplete
  · exact .inr (.inr (engineKept_readWord _ off))
  · rcases writeWord_resets_or_keeps s.dropInput off v with hreset | hkept
    · exact .inr (.inl (hreset ▸ isReset_blockReset s))
    · exact .inr (.inr hkept)
  · exact .inr (.inl (isReset_blockReset s))

/-! ### The ZUC unit before the first ZINIT -/

theorem zucClearUntilReady_reset : ZucClearUntilReady State.reset := fun _ => ⟨rfl, rfl, rfl⟩

theorem zucClearUntilReady_of_zucKept {s t : State} (hkept : ZucKept s t) (h : ZucClearUntilReady s) :
    ZucClearUntilReady t := by
  intro hzrdy
  rw [hkept.zuc, hkept.zout, hkept.dout]
  exact h (hkept.zrdy ▸ hzrdy)

theorem zucClearUntilReady_of_isReset {s t : State} (h : IsReset s t) : ZucClearUntilReady t := by
  obtain ⟨_, rfl⟩ := h
  exact zucClearUntilReady_reset

/-! ### The words of the window under a command's writes -/

theorem peek_complete {reg : WindowReg} (s : State) (c : Code) (h : reg ≠ .status) :
    peek (s.complete c) reg = peek s reg := by
  cases reg with
  | status => exact absurd rfl h
  | _ => rfl

theorem peek_setGpr {reg : WindowReg} (s : State) (rd : GenReg) (v : U256) (h : ¬ ∃ j, reg = .gpr rd j) :
    peek (s.setGpr rd v) reg = peek s reg := by
  cases reg with
  | gpr i j =>
    have hne : rd.val ≠ i.val := fun hval => h ⟨j, by rw [Fin.ext hval]⟩
    simp [peek, hne]
  | _ => rfl

theorem peek_setPoint {reg : WindowReg} (s : State) (pd : PointReg) (t : PointTriple)
    (h : ¬ (reg = .pointInf pd ∨ ∃ j, reg = .pointX pd j ∨ reg = .pointY pd j)) :
    peek (s.setPoint pd t) reg = peek s reg := by
  cases reg with
  | pointX i j =>
    have hne : pd.val ≠ i.val := fun hval => h (.inr ⟨j, .inl (by rw [Fin.ext hval])⟩)
    simp [peek, hne]
  | pointY i j =>
    have hne : pd.val ≠ i.val := fun hval => h (.inr ⟨j, .inr (by rw [Fin.ext hval])⟩)
    simp [peek, hne]
  | pointInf i =>
    have hne : pd.val ≠ i.val := fun hval => h (.inl (by rw [Fin.ext hval]))
    simp [peek, hne]
  | _ => rfl

theorem peek_setCheck {reg : WindowReg} (s : State) (onc pkv : Bool) (h : reg ≠ .status) :
    peek (s.setCheck onc pkv) reg = peek s reg := by
  cases reg with
  | status => exact absurd rfl h
  | _ => rfl

theorem peek_setZucReady {reg : WindowReg} (s : State) (z : ZucState) (h : reg ≠ .status) :
    peek (s.setZucReady z) reg = peek s reg := by
  cases reg with
  | status => exact absurd rfl h
  | _ => rfl

theorem peek_setZout {reg : WindowReg} (s : State) (w : Word) (z : ZucState) (h : reg ≠ .zout) :
    peek (s.setZout w z) reg = peek s reg := by
  cases reg with
  | zout => exact absurd rfl h
  | _ => rfl

theorem peek_setDout {reg : WindowReg} (s : State) (w : Word) (z : ZucState) (h : reg ≠ .dout) :
    peek (s.setDout w z) reg = peek s reg := by
  cases reg with
  | dout => exact absurd rfl h
  | _ => rfl

/-! ### STATUS and CTRL -/

theorem hostRead_status (s : State) :
    hostRead s 0x008 4 = .next { s with responses := (0x008, statusWord s) :: s.responses } := by
  have hword : readWord s 0x008 = { s with responses := (0x008, statusWord s) :: s.responses } := by
    simp [readWord, windowAt, WindowReg.drawnWhileBusy, peek]
  rw [hostRead, admitAccess_word _ (by decide) (by decide), hword]

theorem hostWrite_status (s : State) (v : Word) : hostWrite s 0x008 4 v = .next (s.writeStatus v) := by
  have hword : writeWord s 0x008 v = s.writeStatus v := by
    simp [writeWord, windowAt, WindowReg.lockedWhileBusy, poke]
  rw [hostWrite, admitAccess_word _ (by decide) (by decide), hword]

theorem hostWrite_ctrl (s : State) (v : Word) : hostWrite s 0x004 4 v = .next (s.writeCtrl v) := by
  have hword : writeWord s 0x004 v = s.writeCtrl v := by
    simp [writeWord, windowAt, WindowReg.lockedWhileBusy, poke]
  rw [hostWrite, admitAccess_word _ (by decide) (by decide), hword]

/-- The STATUS word above its eight flag bits: LASTERR, then zeros (10_state R35). -/
theorem statusWord_getLsbD_add_eight (s : State) (b : Nat) :
    (statusWord s).getLsbD (8 + b) = if b < 4 then s.lastErr.getLsbD b else false := by
  simp (disch := omega) only [statusWord, BitVec.getLsbD_append, if_neg]
  simp

theorem statusWord_lastErr (s : State) : (statusWord s).extractLsb' 8 4 = s.lastErr := by
  apply BitVec.eq_of_getLsbD_eq
  intro b hb
  simp only [BitVec.getLsbD_extractLsb', statusWord_getLsbD_add_eight, hb, if_true, decide_true, Bool.true_and]

theorem statusWord_getLsbD_reserved (s : State) {b : Nat} (h : 12 ≤ b) : (statusWord s).getLsbD b = false := by
  obtain ⟨c, rfl⟩ := Nat.exists_eq_add_of_le (show 8 ≤ b by omega)
  rw [statusWord_getLsbD_add_eight, if_neg (by omega)]

theorem ctrlWord_eq (s : State) : ctrlWord s = if s.ie then 1 else 0 := by
  cases h : s.ie <;> simp [ctrlWord, h]

end Sys2Proof.Machine

namespace Sys2Proof.Proofs

open Sys2Proof.Machine Sys2Proof.Safety

/-- Settles O55: a completion that touches the ZUC unit leaves ZRDY = 1, and any other step keeps it or resets it. -/
theorem stepKeepsZucClearUntilReady : Obligations.StepKeepsZucClearUntilReady := by
  intro s t hs hstep
  rcases step_completes_resets_or_keeps hstep with ⟨-, hcomplete⟩ | hreset | hkept
  · rcases completeCommand_zuc hcomplete with hkept | ⟨hready, -⟩
    · exact zucClearUntilReady_of_zucKept hkept hs
    · exact fun hclear => absurd hready (by simp [hclear])
  · exact zucClearUntilReady_of_isReset hreset
  · exact zucClearUntilReady_of_zucKept hkept.zuc hs

/-- Settles O27, by the destination of each command's writes. -/
theorem commandsKeepTheWindow : Obligations.CommandsKeepTheWindow := by
  intro s t i hexec reg hstatus hdest
  rcases exec_cases hexec with ⟨c, -, rfl⟩ | ⟨u, hu, rfl⟩
  · exact peek_complete s c hstatus
  rw [peek_complete u .ok hstatus]
  cases i with
  | nop =>
    obtain rfl := hu
    rfl
  | fadd rd | fsub rd | fmul rd | fsqr rd | finv rd =>
    obtain ⟨v, -, rfl⟩ := hu
    exact peek_setGpr s rd v hdest
  | padd pd | pdbl pd | pmul pd | pldg pd =>
    obtain ⟨q, -, rfl⟩ := hu
    exact peek_setPoint s pd (storePoint q) hdest
  | pchk =>
    obtain rfl := hu
    exact peek_setCheck s _ _ hstatus
  | zinit =>
    obtain rfl := hu
    exact peek_setZucReady s _ hstatus
  | zgen =>
    obtain ⟨-, rfl⟩ := hu
    exact peek_setZout s _ _ hdest
  | zxor =>
    obtain ⟨-, rfl⟩ := hu
    exact peek_setDout s _ _ hdest

/-- Settles O57: of completions, only a ZUC command's touches the ZUC unit, and a step without one leaves it or resets it. -/
theorem onlyZucCommandsChangeTheZucState : Obligations.OnlyZucCommandsChangeTheZucState := by
  intro s t hstep hchanged
  have hnot : ¬ ZucKept s.dropInput t := fun hkept => hchanged.elim (· hkept.zuc) (· hkept.zrdy)
  rcases step_completes_resets_or_keeps hstep with ⟨hbusy, hcomplete⟩ | hreset | hkept
  · obtain ⟨hidle, hdone⟩ := completeCommand_idle_done hcomplete
    obtain ⟨-, hcommand⟩ := (completeCommand_zuc hcomplete).resolve_left hnot
    exact .inl ⟨hbusy, hidle, hdone, hcommand⟩
  · exact .inr hreset
  · exact absurd hkept.zuc hnot

/-- Settles O58: of completions, only a PCHK's touches the check flags, and a step without one leaves them or resets them. -/
theorem onlyPchkChangesTheCheckFlags : Obligations.OnlyPchkChangesTheCheckFlags := by
  intro s t hstep hchanged
  have hnot : ¬ CheckKept s.dropInput t := fun hkept => hchanged.elim (· hkept.onc) (· hkept.pkv)
  rcases step_completes_resets_or_keeps hstep with ⟨hbusy, hcomplete⟩ | hreset | hkept
  · obtain ⟨hidle, hdone⟩ := completeCommand_idle_done hcomplete
    exact .inl ⟨hbusy, hidle, hdone, (completeCommand_check hcomplete).resolve_left hnot⟩
  · exact .inr hreset
  · exact absurd hkept.check hnot

/-- Settles O59: a step that neither completes nor resets keeps LASTERR and does not raise ERR. -/
theorem onlyCompletionChangesLastErr : Obligations.OnlyCompletionChangesLastErr := by
  intro s t hstep
  rcases step_completes_resets_or_keeps hstep with ⟨hbusy, hcomplete⟩ | hreset | hkept
  · obtain ⟨hidle, hdone⟩ := completeCommand_idle_done hcomplete
    exact ⟨fun _ => .inl ⟨hbusy, hidle, hdone⟩,
      fun hs ht => ⟨hbusy, hidle, completeCommand_lastErr_ne_zero hcomplete hs ht⟩⟩
  · refine ⟨fun _ => .inr hreset, fun _ ht => ?_⟩
    obtain ⟨_, rfl⟩ := hreset
    exact absurd ht Bool.false_ne_true
  · exact ⟨fun hne => absurd hkept.lastErr hne, fun hs ht => absurd (hkept.err ht) (by simp [hs])⟩

/-- Settles O46: the read answers `statusWord`, whose bits are read off its concatenation. -/
theorem statusReadsItsFields : Obligations.StatusReadsItsFields := by
  intro s
  refine ⟨statusWord s, hostRead_status s, ?_, ?_, ?_, ?_, ?_, ?_, ?_, ?_, statusWord_lastErr s,
    fun b hb => statusWord_getLsbD_reserved s hb⟩ <;>
    simp only [statusWord, BitVec.getLsbD_append] <;> simp

/-- Settles O47: the write acts by `writeStatus`, whose masks are the three conditions. -/
theorem statusWriteClearsNamedBits : Obligations.StatusWriteClearsNamedBits := by
  intro s v
  refine ⟨s.writeStatus v, hostWrite_status s v, ?_, fun h => by simp [State.irq, h]⟩
  simp only [State.writeStatus, Bool.if_false_left, Bool.decide_eq_true, Bool.and_comm]

/-- Settles O48: the write acts by `writeCtrl`, on either side of SRST. -/
theorem ctrlReadsAndWritesIe : Obligations.CtrlReadsAndWritesIe := by
  intro s v
  refine ⟨ctrlWord_eq s, s.writeCtrl v, hostWrite_ctrl s v, ?_⟩
  by_cases hreset : v.getLsbD 1 = true
  · rw [if_pos hreset, State.writeCtrl, if_pos hreset]
    exact ⟨rfl, rfl⟩
  · rw [if_neg hreset, State.writeCtrl, if_neg hreset]
    rfl

/-- Settles O51: finitely many closed equations about the literal reset state. -/
theorem resetValues : Obligations.ResetValues := by
  unfold Obligations.ResetValues
  decide

/-- Settles O56: ZRDY = 0, LASTERR = 0 and BUSY = 0 in the reset state. -/
theorem resetMeetsTheInvariants : Obligations.ResetMeetsTheInvariants :=
  ⟨by simp [CellsNonZero, State.reset], by simp [LastErrDefined, State.reset], by simp [NotBusyAndDone, State.reset],
    zucClearUntilReady_reset⟩

end Sys2Proof.Proofs

/-! The family of 20_memory: what a host access of one word of the window answers and what it changes. -/

namespace Sys2Proof.Machine

open Sys2Proof.Safety

/-! ### Admission -/

theorem hostRead_word {s : State} {off : Nat} (h4 : off % 4 = 0) (hl : off ≤ 0xFFC) :
    hostRead s off 4 = .next (readWord s off) :=
  admitAccess_word _ h4 hl

theorem hostWrite_word {s : State} {off : Nat} {v : Word} (h4 : off % 4 = 0) (hl : off ≤ 0xFFC) :
    hostWrite s off 4 v = .next (writeWord s off v) :=
  admitAccess_word _ h4 hl

/-- The reason for a refusal lies in the offset and the size alone (20_memory R71). -/
theorem admitAccess_refused {off size : Nat} (h : ¬ (size = 4 ∧ off % 4 = 0 ∧ off ≤ 0xFFC)) :
    ∃ r, ∀ t, admitAccess off size t = .refused r := by
  by_cases hsize : size = 4
  · by_cases halign : off % 4 = 0
    · have hout : 0xFFC < off := by omega
      exact ⟨.outsideWindow off, fun t => by simp [admitAccess, hsize, halign, hout]⟩
    · exact ⟨.misaligned off, fun t => by simp [admitAccess, hsize, halign]⟩
  · exact ⟨.accessSize size, fun t => by simp [admitAccess, hsize]⟩

/-! ### What a read answers -/

/-- A read that is no busy draw answers the word of the map at its offset. -/
theorem readAnswers_peek {s : State} {off : Nat} {reg : WindowReg} (hreg : windowAt off = reg) (h4 : off % 4 = 0)
    (hl : off ≤ 0xFFC) (h : s.inflight = false ∨ reg.drawnWhileBusy = false) : ReadAnswers s off (peek s reg) := by
  have hdraw : (s.inflight && reg.drawnWhileBusy) = false := Bool.and_eq_false_iff.2 h
  rw [ReadAnswers, hostRead_word h4 hl]
  simp [readWord, hreg, hdraw]

/-- A read of a data word while BUSY = 1 answers the next draw (20_memory R84, log 4). -/
theorem hostRead_draw {s : State} {off : Nat} (h4 : off % 4 = 0) (hl : off ≤ 0xFFC) (hbusy : s.inflight = true)
    (hdrawn : (windowAt off).drawnWhileBusy = true) :
    hostRead s off 4 = .next { s with
      responses := (off, Config.busyRead s.draws) :: s.responses, draws := s.draws + 1 } := by
  rw [hostRead_word h4 hl]
  simp [readWord, hbusy, hdrawn]

/-- The words of ZOUT, DOUT, R and P in the map are drawn while BUSY = 1 (20_memory R72, R84). -/
theorem windowAt_drawn {off : Nat} (h4 : off % 4 = 0)
    (h : off = 0x010 ∨ off = 0x018 ∨ (0x100 ≤ off ∧ off < 0x300) ∨
      (0x400 ≤ off ∧ off < 0x600 ∧ (off - 0x400) % 0x80 ≤ 0x40)) : (windowAt off).drawnWhileBusy = true := by
  rcases h with rfl | rfl | ⟨hlo, hhi⟩ | ⟨hlo, hhi, hword⟩
  · rfl
  · rfl
  · simp (disch := omega) only [windowAt, if_neg, if_pos]
    rfl
  · simp (disch := omega) only [windowAt, if_neg, if_pos, pointWordAt]
    split_ifs <;> rfl

/-- An inf word reads bit 0, and 0 above it (20_memory R75). -/
theorem peek_pointInf (s : State) (i : PointReg) :
    peek s (.pointInf i) = if (s.pts[i.val]).inf then 1 else 0 := by
  cases h : (s.pts[i.val]).inf <;> simp [peek, h]

/-! ### What a write does -/

/-- A write that is not locked out acts by `poke` on the register at its offset. -/
theorem hostWrite_poke {s : State} {off : Nat} {reg : WindowReg} {v : Word} (hreg : windowAt off = reg)
    (h4 : off % 4 = 0) (hl : off ≤ 0xFFC) (h : s.inflight = false ∨ reg.lockedWhileBusy = false) :
    hostWrite s off 4 v = .next (poke s v reg) := by
  have hlock : (s.inflight && reg.lockedWhileBusy) = false := Bool.and_eq_false_iff.2 h
  rw [hostWrite_word h4 hl]
  simp [writeWord, hreg, hlock]

/-- The words whose write nothing records: ID, ZOUT, DOUT and the reserved ones (20_memory R73). -/
def WindowReg.Ignored (reg : WindowReg) : Prop :=
  reg = .id ∨ reg = .zout ∨ reg = .dout ∨ reg = .reserved

/-- A write of such a word changes nothing, busy or not. -/
theorem hostWrite_ignored {s : State} {off : Nat} {v : Word} (h4 : off % 4 = 0) (hl : off ≤ 0xFFC)
    (h : (windowAt off).Ignored) : hostWrite s off 4 v = .next s := by
  rcases h with hreg | hreg | hreg | hreg <;> exact hostWrite_poke hreg h4 hl (.inr rfl)

theorem wordGet_wordSet (v : U256) (j k : Fin 8) (w : Word) :
    wordGet (wordSet v j w) k = if k = j then w else wordGet v k := by
  split
  case isTrue h => rw [h, wordGet_wordSet_same]
  case isFalse h => exact wordGet_wordSet_other v w h

/-! ### What a data write leaves unchanged -/

theorem peek_setDin {reg : WindowReg} (s : State) (w : Word) (h : reg ≠ .din) :
    peek (s.setDin w) reg = peek s reg := by
  cases reg with
  | din => exact absurd rfl h
  | _ => rfl

theorem peek_setKey (s : State) (j : Fin 4) (w : Word) (reg : WindowReg) : peek (s.setKey j w) reg = peek s reg := by
  cases reg <;> rfl

theorem peek_setIv {reg : WindowReg} (s : State) (j : Fin 4) (w : Word) (h : reg ≠ .iv j) :
    peek (s.setIv j w) reg = peek s reg := by
  cases reg with
  | iv k =>
    have hne : j.val ≠ k.val := fun hval => h (by rw [Fin.ext hval])
    simp [peek, hne]
  | _ => rfl

/-- A word of the window that R[i]'s new value does not change reads as before. -/
theorem peek_setGpr_of_words {reg : WindowReg} (s : State) (i : GenReg) (v : U256)
    (h : ∀ k, reg = .gpr i k → wordGet v k = wordGet s.gpr[i.val] k) : peek (s.setGpr i v) reg = peek s reg := by
  by_cases hown : ∃ k, reg = .gpr i k
  · obtain ⟨k, rfl⟩ := hown
    simpa [peek] using h k rfl
  · exact peek_setGpr s i v hown

/-- A word of the window that P[i]'s new triple does not change reads as before. -/
theorem peek_setPoint_of_words {reg : WindowReg} (s : State) (i : PointReg) (t : PointTriple)
    (hx : ∀ k, reg = .pointX i k → wordGet t.x k = wordGet (s.pts[i.val]).x k)
    (hy : ∀ k, reg = .pointY i k → wordGet t.y k = wordGet (s.pts[i.val]).y k)
    (hinf : reg = .pointInf i → t.inf = (s.pts[i.val]).inf) : peek (s.setPoint i t) reg = peek s reg := by
  by_cases hown : reg = .pointInf i ∨ ∃ k, reg = .pointX i k ∨ reg = .pointY i k
  · rcases hown with rfl | ⟨k, rfl | rfl⟩
    · simp [peek, hinf rfl]
    · simpa [peek] using hx k rfl
    · simpa [peek] using hy k rfl
  · exact peek_setPoint s i t hown

/-- The registers a write of which stores at most a word: all but CTRL, STATUS and CMD. -/
def WindowReg.IsData (reg : WindowReg) : Prop :=
  reg ≠ .ctrl ∧ reg ≠ .status ∧ reg ≠ .cmd

/-- A data write leaves every other word of the window as it reads (20_memory R80). -/
theorem peek_poke_other (s : State) (v : Word) {reg other : WindowReg} (hdata : reg.IsData) (hne : other ≠ reg) :
    peek (poke s v reg) other = peek s other := by
  obtain ⟨hctrl, hstatus, hcmd⟩ := hdata
  cases reg with
  | ctrl => exact absurd rfl hctrl
  | status => exact absurd rfl hstatus
  | cmd => exact absurd rfl hcmd
  | id | zout | dout | reserved => rfl
  | din => exact peek_setDin s v hne
  | key j => exact peek_setKey s j v other
  | iv j => exact peek_setIv s j v hne
  | gpr i j =>
    exact peek_setGpr_of_words s i _ fun k hk => wordGet_wordSet_other _ v fun hkj => hne (hkj ▸ hk)
  | pointX i j =>
    exact peek_setPoint_of_words s i _ (fun k hk => wordGet_wordSet_other _ v fun hkj => hne (hkj ▸ hk))
      (fun _ _ => rfl) fun _ => rfl
  | pointY i j =>
    exact peek_setPoint_of_words s i _ (fun _ _ => rfl)
      (fun k hk => wordGet_wordSet_other _ v fun hkj => hne (hkj ▸ hk)) fun _ => rfl
  | pointInf i =>
    exact peek_setPoint_of_words s i _ (fun _ _ => rfl) (fun _ _ => rfl) fun hinf => absurd hinf hne

/-- A data write leaves every other word of KEY. -/
theorem poke_key_other (s : State) (v : Word) {reg : WindowReg} {j : Fin 4} (hdata : reg.IsData) (hne : reg ≠ .key j) :
    (poke s v reg).key[j.val] = s.key[j.val] := by
  obtain ⟨hctrl, -, -⟩ := hdata
  cases reg with
  | ctrl => exact absurd rfl hctrl
  | key k => exact Vector.getElem_set_ne k.isLt j.isLt fun hval => hne (by rw [Fin.ext hval])
  | _ => rfl

/-- A data write changes no field but those of the data registers (20_memory R80). -/
theorem poke_data_frame (s : State) (v : Word) {reg : WindowReg} (hdata : reg.IsData) :
    poke s v reg = { s with
      gpr := (poke s v reg).gpr, pts := (poke s v reg).pts, key := (poke s v reg).key, iv := (poke s v reg).iv,
      din := (poke s v reg).din } := by
  obtain ⟨hctrl, hstatus, hcmd⟩ := hdata
  cases reg with
  | ctrl => exact absurd rfl hctrl
  | status => exact absurd rfl hstatus
  | cmd => exact absurd rfl hcmd
  | _ => rfl

/-! ### The words of a register -/

/-- The first n digits of a number in base b give its remainder modulo b^n. -/
theorem sum_digits_eq_mod (b V n : Nat) : ∑ k ∈ Finset.range n, V / b ^ k % b * b ^ k = V % b ^ n := by
  induction n with
  | zero => simp [Nat.mod_one]
  | succ n ih => rw [Finset.sum_range_succ, ih, Nat.mod_pow_succ, Nat.mul_comm]

/-- A 256-bit value is the sum of its eight words, word j weighing 2^(224-32j) (20_memory R75). -/
theorem toNat_eq_sum_wordGet (v : U256) : v.toNat = ∑ j : Fin 8, (wordGet v j).toNat * 2 ^ (224 - 32 * j.val) := by
  have hdigit : ∀ j : Fin 8, (wordGet v j).toNat * 2 ^ (224 - 32 * j.val) =
      v.toNat / (2 ^ 32) ^ (8 - 1 - j.val) % 2 ^ 32 * (2 ^ 32) ^ (8 - 1 - j.val) := by
    intro j
    rw [wordGet_toNat, ← Nat.pow_mul, show 224 - 32 * j.val = 32 * (8 - 1 - j.val) by omega]
  calc v.toNat = v.toNat % (2 ^ 32) ^ 8 := (Nat.mod_eq_of_lt v.isLt).symm
    _ = ∑ k ∈ Finset.range 8, v.toNat / (2 ^ 32) ^ k % 2 ^ 32 * (2 ^ 32) ^ k := (sum_digits_eq_mod _ _ _).symm
    _ = ∑ k ∈ Finset.range 8, v.toNat / (2 ^ 32) ^ (8 - 1 - k) % 2 ^ 32 * (2 ^ 32) ^ (8 - 1 - k) :=
      (Finset.sum_range_reflect _ 8).symm
    _ = ∑ j : Fin 8, (wordGet v j).toNat * 2 ^ (224 - 32 * j.val) := by simp only [Finset.sum_range, hdigit]

end Sys2Proof.Machine

namespace Sys2Proof.Proofs

open Sys2Proof.Machine Sys2Proof.Safety

/-- Settles O37: at each such offset the map has ID, ZOUT, DOUT or a reserved word. -/
theorem reservedAndReadOnlyWritesIgnored : Obligations.ReservedAndReadOnlyWritesIgnored := by
  intro s off v h4 hl hoff
  refine hostWrite_ignored h4 hl ?_
  rcases hoff with rfl | rfl | rfl | hreserved
  · exact .inl rfl
  · exact .inr (.inl rfl)
  · exact .inr (.inr (.inl rfl))
  · exact .inr (.inr (.inr (windowAt_reserved h4 hl hreserved)))

/-- Settles O38: a reserved word is never drawn and reads 0, and every read is of the form of `readWord_eq`. -/
theorem readsChangeNothing : Obligations.ReadsChangeNothing := by
  intro s off h4 hl
  by_cases hreg : windowAt off = .reserved
  · exact ⟨0, s.draws, readAnswers_peek hreg h4 hl (.inr rfl), fun _ => ⟨rfl, rfl⟩⟩
  · obtain ⟨v, d, hread⟩ := readWord_eq s off
    exact ⟨v, d, by rw [hostRead_word h4 hl, hread], fun hoff => absurd (windowAt_reserved h4 hl hoff) hreg⟩

/-- Settles O39: the map has words of ZOUT, DOUT, R and P at these offsets, and a busy read of one is a draw. -/
theorem busyDataReadsAreDraws : Obligations.BusyDataReadsAreDraws := by
  intro s off hbusy h4 hoff
  exact hostRead_draw h4 (by omega) hbusy (windowAt_drawn h4 hoff)

/-- Settles O40: each offset by its register in the map, then `readAnswers_peek`. -/
theorem readsAnswerTheRegisters : Obligations.ReadsAnswerTheRegisters := by
  intro s
  refine ⟨readAnswers_peek (reg := .id) rfl rfl (by decide) (.inr rfl), ?_,
    readAnswers_peek (reg := .cmd) rfl rfl (by decide) (.inr rfl),
    readAnswers_peek (reg := .status) rfl rfl (by decide) (.inr rfl),
    readAnswers_peek (reg := .din) rfl rfl (by decide) (.inr rfl),
    fun off h4 hl hoff => readAnswers_peek (windowAt_reserved h4 hl hoff) h4 hl (.inr rfl),
    fun j => ⟨readAnswers_peek (windowAt_key j) (by omega) (by omega) (.inr rfl),
      readAnswers_peek (windowAt_iv j) (by omega) (by omega) (.inr rfl)⟩,
    fun hidle => ⟨readAnswers_peek (reg := .zout) rfl rfl (by decide) (.inl hidle),
      readAnswers_peek (reg := .dout) rfl rfl (by decide) (.inl hidle),
      fun i j => readAnswers_peek (windowAt_gpr i j) (by omega) (by omega) (.inl hidle),
      fun i => ⟨?_, fun j => ⟨readAnswers_peek (windowAt_pointX i j) (by omega) (by omega) (.inl hidle),
        readAnswers_peek (windowAt_pointY i j) (by omega) (by omega) (.inl hidle)⟩⟩⟩⟩
  · rw [← ctrlWord_eq]
    exact readAnswers_peek (reg := .ctrl) rfl rfl (by decide) (.inr rfl)
  · rw [← peek_pointInf]
    exact readAnswers_peek (windowAt_pointInf i) (by omega) (by omega) (.inl hidle)

/-- Settles O41: each offset by its register in the map, then `hostWrite_poke`; the words of the new value are those of
`wordSet`. -/
theorem dataWritesLandWhole : Obligations.DataWritesLandWhole := by
  intro s v hidle
  refine ⟨hostWrite_poke (reg := .din) rfl rfl (by decide) (.inl hidle), fun j => ⟨?_, ?_⟩, fun i j => ?_,
    fun i => ⟨?_, fun j => ?_⟩⟩
  · exact hostWrite_poke (windowAt_key j) (by omega) (by omega) (.inl hidle)
  · exact hostWrite_poke (windowAt_iv j) (by omega) (by omega) (.inl hidle)
  · exact ⟨wordSet s.gpr[i.val] j v, hostWrite_poke (windowAt_gpr i j) (by omega) (by omega) (.inl hidle),
      fun k => wordGet_wordSet _ j k v⟩
  · exact hostWrite_poke (windowAt_pointInf i) (by omega) (by omega) (.inl hidle)
  · exact ⟨wordSet (s.pts[i.val]).x j v, wordSet (s.pts[i.val]).y j v,
      hostWrite_poke (windowAt_pointX i j) (by omega) (by omega) (.inl hidle),
      hostWrite_poke (windowAt_pointY i j) (by omega) (by omega) (.inl hidle),
      fun k => ⟨wordGet_wordSet _ j k v, wordGet_wordSet _ j k v⟩⟩

/-- Settles O42: the write pokes word j of R[i], and the read answers word k of the register left. -/
theorem generalRegisterWordsReadBack : Obligations.GeneralRegisterWordsReadBack := by
  intro s i j k v hidle
  have hwrite : hostWrite s (0x100 + 0x20 * i.val + 4 * j.val) 4 v = .next (poke s v (.gpr i j)) :=
    hostWrite_poke (windowAt_gpr i j) (by omega) (by omega) (.inl hidle)
  have hread := readAnswers_peek (s := poke s v (.gpr i j)) (windowAt_gpr i k) (by omega) (by omega) (.inl hidle)
  refine ⟨_, _, hwrite, hread, ?_⟩
  exact congrArg (fun w => (_, w) :: s.responses) (poke_gpr_words s v i j k)

/-- Settles O43: with BUSY = 0 the write is `poke` of a data register, which leaves every other word. -/
theorem dataWritesChangeOnlyTheirWord : Obligations.DataWritesChangeOnlyTheirWord := by
  intro s t off v hidle hoff hwrite
  obtain ⟨-, h4, hl, -⟩ := admitAccess_eq_next hwrite
  have hdata : (windowAt off).IsData := windowAt_data h4 hl hoff
  obtain rfl : poke s v (windowAt off) = t :=
    Host.Outcome.next.inj ((hostWrite_poke rfl h4 hl (.inl hidle)).symm.trans hwrite)
  exact ⟨fun reg hne => peek_poke_other s v hdata hne, fun j hne => poke_key_other s v hdata hne,
    poke_data_frame s v hdata⟩

/-- Settles O44, for any 256-bit value: its eight words are its digits in base 2^32. -/
theorem eightWordsSpellTheRegister : Obligations.EightWordsSpellTheRegister :=
  fun s i => toNat_eq_sum_wordGet s.gpr[i.val]

/-- Settles O45: reads and writes pass one admission test, which looks at the offset and the size alone. -/
theorem onlyWordAccessesReachTheBlock : Obligations.OnlyWordAccessesReachTheBlock := by
  intro s off size v
  split
  case isTrue h =>
    obtain ⟨rfl, h4, hl⟩ := h
    exact ⟨⟨_, hostRead_word h4 hl⟩, _, hostWrite_word h4 hl⟩
  case isFalse h =>
    obtain ⟨r, hr⟩ := admitAccess_refused h
    exact ⟨r, hr _, hr _⟩

end Sys2Proof.Proofs

/-! The family of 30_encoding: the rows of the opcode map, the fields of a word of a row's shape, and the two round trips. -/

namespace Sys2Proof

/-! ### The rows of the opcode map -/

theorem opcodeMap_distinct : opcodeMap.Pairwise fun r r' => r.opc ≠ r'.opc := by decide

/-- The row of an opcode is the one row of the map that has it. -/
theorem rowOf_eq_some_iff {opc : BitVec 8} {row : OpRow} : rowOf opc = some row ↔ row ∈ opcodeMap ∧ row.opc = opc := by
  constructor
  · intro h
    exact ⟨List.mem_of_find?_eq_some h, by simpa using List.find?_some h⟩
  · rintro ⟨hmem, rfl⟩
    obtain ⟨found, hfound⟩ : ∃ found, rowOf row.opc = some found :=
      Option.isSome_iff_exists.1 (List.find?_isSome.2 ⟨row, hmem, beq_self_eq_true row.opc⟩)
    have hopc : found.opc = row.opc := by simpa using List.find?_some hfound
    have hinj := List.inj_on_of_nodup_map (f := OpRow.opc) (List.pairwise_map.2 opcodeMap_distinct)
    rwa [hinj (List.mem_of_find?_eq_some hfound) hmem hopc] at hfound

/-- An opcode in one of the four ranges of R108. -/
def ReservedOpcode (opc : Nat) : Prop :=
  (0x01 ≤ opc ∧ opc ≤ 0x0F) ∨ (0x15 ≤ opc ∧ opc ≤ 0x1F) ∨ (0x25 ≤ opc ∧ opc ≤ 0x2F) ∨ 0x33 ≤ opc

theorem rowOf_reserved {opc : BitVec 8} (h : ReservedOpcode opc.toNat) : rowOf opc = none := by
  have hrows : ∀ row ∈ opcodeMap, ¬ ReservedOpcode row.opc.toNat := by
    unfold ReservedOpcode
    decide
  refine List.find?_eq_none.2 fun row hmem heq => hrows row hmem ?_
  rwa [eq_of_beq heq]

/-- What a row's shape says of one field of a word. -/
theorem field_of_shape {w m p : Word} (h : w &&& m = p) (lo len : Nat) :
    w.extractLsb' lo len &&& m.extractLsb' lo len = p.extractLsb' lo len := by
  rw [← BitVec.extractLsb'_and, h]

/-- A field that a row's mask covers holds what the row's match says. -/
theorem field_of_masked {w m p : Word} {lo len : Nat} {v : BitVec len} (h : w &&& m = p)
    (hmask : m.extractLsb' lo len = BitVec.allOnes len := by rfl) (hpat : p.extractLsb' lo len = v := by rfl) :
    w.extractLsb' lo len = v := by
  rw [← hpat, ← field_of_shape h, hmask, BitVec.and_allOnes]

/-- A word of a row's shape has the row's opcode: every row's mask covers OPC (30_encoding R105). -/
theorem opcodeOf_of_shape {row : OpRow} {w : Word} (hmem : row ∈ opcodeMap) (h : w &&& row.mask = row.pat) :
    opcodeOf w = row.opc := by
  have hrows : ∀ row ∈ opcodeMap, opcodeOf row.mask = BitVec.allOnes 8 ∧ opcodeOf row.pat = row.opc := by decide
  obtain ⟨hmask, hpat⟩ := hrows row hmem
  exact field_of_masked h hmask hpat

/-- Bits 11:3 of a word of a row's shape are zero (30_encoding R101). -/
theorem middle_of_shape {row : OpRow} {w : Word} (hmem : row ∈ opcodeMap) (h : w &&& row.mask = row.pat) :
    w.extractLsb' 3 9 = 0 := by
  have hrows : ∀ row ∈ opcodeMap, row.mask.extractLsb' 3 9 = BitVec.allOnes 9 ∧ row.pat.extractLsb' 3 9 = 0 := by decide
  obtain ⟨hmask, hpat⟩ := hrows row hmem
  exact field_of_masked h hmask hpat

/-! ### What decodes -/

/-- A word decodes to i exactly when it has the shape of the row of its opcode, and the row's operands make the legal
command i (30_encoding R106). -/
theorem decode_eq_ok_iff {w : Word} {i : Instr} : decode w = .ok i ↔
    ∃ row, rowOf (opcodeOf w) = some row ∧ w &&& row.mask = row.pat ∧ row.operands w = i ∧ i.wellFormed = true := by
  cases hrow : rowOf (opcodeOf w) with
  | none => simp [decode, hrow]
  | some row =>
    by_cases hshape : w &&& row.mask = row.pat
    · cases hwf : (row.operands w).wellFormed with
      | true => simpa [decode, hrow, hshape, hwf] using fun h => h ▸ hwf
      | false => simpa [decode, hrow, hshape, hwf] using fun h => h ▸ hwf
    · simp [decode, hrow, hshape]

theorem decode_of_no_row {w : Word} (h : rowOf (opcodeOf w) = none) :
    decode w = .error (.reservedOpcode (opcodeOf w)) := by
  simp [decode, h]

theorem byteCountLegal_iff : ∀ n : BitVec 3, byteCountLegal n = true ↔ n ∈ [1, 2, 3, 4] := by decide

/-- The one command whose operands can be illegal is ZXOR, by its count (30_encoding R106 clause 3). -/
theorem wellFormed_operands_iff {row : OpRow} (hmem : row ∈ opcodeMap) (w : Word) :
    (row.operands w).wellFormed = true ↔ row.opc ≠ 0x32 ∨ countField w ∈ [1, 2, 3, 4] := by
  simp only [opcodeMap, List.mem_cons, List.not_mem_nil, or_false] at hmem
  rcases hmem with rfl | rfl | rfl | rfl | rfl | rfl | rfl | rfl | rfl | rfl | rfl | rfl | rfl | rfl <;>
    simp [Instr.wellFormed, byteCountLegal_iff]

/-! ### The fields of a word of a row's shape -/

/-- A point register's field, bits 3:2 zero by the row's mask, is the register's (30_encoding R103). -/
theorem field_eq_pointBits {w m p : Word} {lo : Nat} (h : w &&& m = p)
    (hmask : m.extractLsb' lo 4 = 0xC := by rfl) (hpat : p.extractLsb' lo 4 = 0 := by rfl) :
    w.extractLsb' lo 4 = pointBits (pointField lo w) := by
  have hfield : ∀ x : BitVec 4, x &&& 0xC = 0 → x = pointBits (x.extractLsb' 0 2).toFin := by decide
  rw [pointField, low2_extract]
  exact hfield _ (by rw [← hmask, field_of_shape h, hpat])

/-- A word with bits 11:3 zero is the word of its own fields. -/
theorem wordOf_of_fields {w : Word} {o : BitVec 8} {a b c : BitVec 4} {n : BitVec 3} (hmid : w.extractLsb' 3 9 = 0)
    (ho : opcodeOf w = o) (ha : w.extractLsb' 20 4 = a) (hb : w.extractLsb' 16 4 = b) (hc : w.extractLsb' 12 4 = c)
    (hn : countField w = n) : wordOf o a b c n = w := by
  subst ho ha hb hc hn
  exact (wordOf_fields w hmid).symm

/-- No bit of a word of a row's shape is lost in the row's operands (30_encoding R102, R109). Row by row, in the map's
order: a general register's field is its number, a point register's is so by the mask, an unused field is zero by the mask. -/
theorem encode_operands {row : OpRow} {w : Word} (hmem : row ∈ opcodeMap) (h : w &&& row.mask = row.pat) :
    encode (row.operands w) = w := by
  have hmid := middle_of_shape hmem h
  have hopc := opcodeOf_of_shape hmem h
  simp only [opcodeMap, List.mem_cons, List.not_mem_nil, or_false] at hmem
  rcases hmem with rfl | rfl | rfl | rfl | rfl | rfl | rfl | rfl | rfl | rfl | rfl | rfl | rfl | rfl
  · exact wordOf_of_fields hmid hopc (field_of_masked h) (field_of_masked h) (field_of_masked h) (field_of_masked h)
  iterate 3 exact wordOf_of_fields hmid hopc rfl rfl rfl (field_of_masked h)
  iterate 2 exact wordOf_of_fields hmid hopc rfl rfl (field_of_masked h) (field_of_masked h)
  · exact wordOf_of_fields hmid hopc (field_eq_pointBits h) (field_eq_pointBits h) (field_eq_pointBits h)
      (field_of_masked h)
  · exact wordOf_of_fields hmid hopc (field_eq_pointBits h) (field_eq_pointBits h) (field_of_masked h)
      (field_of_masked h)
  · exact wordOf_of_fields hmid hopc (field_eq_pointBits h) rfl (field_eq_pointBits h) (field_of_masked h)
  · exact wordOf_of_fields hmid hopc (field_of_masked h) (field_eq_pointBits h) (field_of_masked h) (field_of_masked h)
  · exact wordOf_of_fields hmid hopc (field_eq_pointBits h) (field_of_masked h) (field_of_masked h) (field_of_masked h)
  iterate 2
    exact wordOf_of_fields hmid hopc (field_of_masked h) (field_of_masked h) (field_of_masked h) (field_of_masked h)
  · exact wordOf_of_fields hmid hopc (field_of_masked h) (field_of_masked h) (field_of_masked h) rfl

/-! ### The word of a command -/

/-- The word of a command has the shape of the row of its opcode (30_encoding R105). -/
theorem encode_has_shape (i : Instr) :
    ∃ row, rowOf (opcodeOf (encode i)) = some row ∧ encode i &&& row.mask = row.pat := by
  cases i with
  | nop => exact Laws.EncodedShape.nop
  | fadd => exact Laws.EncodedShape.fadd _ _ _
  | fsub => exact Laws.EncodedShape.fsub _ _ _
  | fmul => exact Laws.EncodedShape.fmul _ _ _
  | fsqr => exact Laws.EncodedShape.fsqr _ _
  | finv => exact Laws.EncodedShape.finv _ _
  | padd => exact Laws.EncodedShape.padd _ _ _
  | pdbl => exact Laws.EncodedShape.pdbl _ _
  | pmul => exact Laws.EncodedShape.pmul _ _ _
  | pchk => exact Laws.EncodedShape.pchk _
  | pldg => exact Laws.EncodedShape.pldg _
  | zinit => exact Laws.EncodedShape.zinit
  | zgen => exact Laws.EncodedShape.zgen
  | zxor => exact Laws.EncodedShape.zxor _

/-- The row of a command's opcode reads the command's operands back from its word (30_encoding R102, R103). -/
theorem operands_encode {i : Instr} {row : OpRow} (h : rowOf (opcodeOf (encode i)) = some row) :
    row.operands (encode i) = i := by
  cases i with
  | nop | zinit | zgen =>
    obtain rfl := Option.some.inj h
    rfl
  | fadd | fsub | fmul | fsqr | finv | padd | pdbl | pmul | pchk | pldg | zxor =>
    rw [encode, opcodeOf_wordOf] at h
    obtain rfl := Option.some.inj h
    simp only [encode, genField_A, genField_B, genField_C, genBits_toFin, pointField_A, pointField_B, pointField_C,
      pointBits_low, countField_wordOf]

end Sys2Proof

namespace Sys2Proof.Machine

open Sys2Proof.Safety

/-! ### A word that does not decode -/

/-- With an illegal word in flight the engine's turn is its completion with E_ILLEGAL (30_encoding R107). -/
theorem engineTurn_of_not_decoded {s : State} (hbusy : s.inflight = true) (h : ∀ i, decode s.cmdl ≠ .ok i) :
    engineTurn s = .next (s.complete .illegal) := by
  rw [engineTurn, if_pos hbusy, completeCommand]
  cases hdec : decode s.cmdl with
  | ok i => exact absurd hdec (h i)
  | error e => rfl

end Sys2Proof.Machine

namespace Sys2Proof.Proofs

open Sys2Proof.Machine Sys2Proof.Safety

/-- Settles O1: the word has the shape of its opcode's row, whose fields read the operands back. -/
theorem decodeInvertsEncode : Obligations.DecodeInvertsEncode := by
  intro i hwf
  obtain ⟨row, hrow, hshape⟩ := encode_has_shape i
  exact decode_eq_ok_iff.2 ⟨row, hrow, hshape, operands_encode hrow, hwf⟩

/-- Settles O2: a word that decodes has the shape of its row, and such a word is that of the row's operands. -/
theorem encodeInvertsDecode : Obligations.EncodeInvertsDecode := by
  intro w i hdec
  obtain ⟨row, hrow, hshape, rfl, hwf⟩ := decode_eq_ok_iff.1 hdec
  exact ⟨hwf, encode_operands (rowOf_eq_some_iff.1 hrow).1 hshape⟩

/-- Settles O3: the three clauses of R106 are the three tests of `decode`. -/
theorem decodedWordsAreTheLegalOnes : Obligations.DecodedWordsAreTheLegalOnes := by
  intro w
  constructor
  · rintro ⟨_, hdec⟩
    obtain ⟨row, hrow, hshape, rfl, hwf⟩ := decode_eq_ok_iff.1 hdec
    obtain ⟨hmem, hopc⟩ := rowOf_eq_some_iff.1 hrow
    exact ⟨row, hmem, hopc, hshape, (wellFormed_operands_iff hmem w).1 hwf⟩
  · rintro ⟨row, hmem, hopc, hshape, hcount⟩
    exact ⟨row.operands w, decode_eq_ok_iff.2
      ⟨row, rowOf_eq_some_iff.2 ⟨hmem, hopc⟩, hshape, rfl, (wellFormed_operands_iff hmem w).2 hcount⟩⟩

/-- Settles O4: a word of two rows' shapes would have both their opcodes, and no row has a reserved opcode. -/
theorem wordsFallInOneClass : Obligations.WordsFallInOneClass := by
  refine ⟨opcodeMap_distinct.imp_of_mem fun hr hr' hne => ⟨hne, fun w ⟨h, h'⟩ => hne ?_⟩,
    fun w hreserved => decode_of_no_row (rowOf_reserved hreserved)⟩
  exact (opcodeOf_of_shape hr h).symm.trans (opcodeOf_of_shape hr' h')

/-- Settles O9: acceptance latches any word, and the engine's turn finds that it does not decode. -/
theorem illegalWordCompletesWithIllegal : Obligations.IllegalWordCompletesWithIllegal := by
  intro s w hidle hillegal
  exact ⟨s.accept w, (s.accept w).complete .illegal,
    hostWrite_poke (reg := .cmd) rfl (by decide) (by decide) (.inl hidle), rfl, rfl,
    engineTurn_of_not_decoded rfl hillegal, completed_complete _ .illegal, writesNothing_complete _ .illegal⟩

/-- Settles O5: R110's words, each run through `decode`. -/
theorem exampleWordsDecode : Obligations.ExampleWordsDecode := by
  refine ⟨?_, ?_, ?_, ?_, ?_, ?_, ?_, ?_, ?_, ?_, ?_, ?_, ?_, ?_, ?_, ?_, fun w hw => ?_⟩
  case refine_17 =>
    simp only [List.mem_cons, List.not_mem_nil, or_false] at hw
    rcases hw with rfl | rfl | rfl | rfl | rfl | rfl | rfl <;> decide
  all_goals decide

end Sys2Proof.Proofs

/-! The family of 40_field: how a field command ends, the word of one, and the arithmetic modulo p that it writes. -/

namespace Sys2Proof.Machine

open Sys2Proof.Safety Sys2Proof.Laws.Curve

/-! ### How a field command ends -/

/-- An error makes none of the command's writes (60_exceptions R305). -/
theorem finish_error_spec (s : State) (c : Code) :
    ∃ t, finish s (.error c) = .next t ∧ Completed c.bits s t ∧ WritesNothing s t :=
  ⟨_, rfl, completed_complete s c, writesNothing_complete s c⟩

/-- A residue written to R[rd] is what R[rd] holds after the completion, and nothing else is written (40_field R132). -/
theorem finish_setGpr_spec (s : State) (rd : GenReg) {v : Nat} (hv : v < fieldPrime) :
    ∃ t, finish s (.ok (s.setGpr rd (BitVec.ofNat 256 v))) = .next t ∧
      Completed 0 s t ∧ (t.gpr[rd.val]).toNat = v ∧ WritesOnlyGpr rd s t := by
  have hp : fieldPrime < 2 ^ 256 := by decide
  have hfits : v % 2 ^ 256 = v := Nat.mod_eq_of_lt (hv.trans hp)
  exact ⟨_, rfl, completed_after s rfl, by simpa using hfits, writesOnlyGpr_complete s rd _ .ok⟩

/-- A field command with two sources writes `f a b`, given as `g a b` for residues a and b, or completes with E_RANGE
(40_field R131, R132). -/
theorem finish_fieldBinary_spec {f : Nat → Nat → Nat} (g : Nat → Nat → Nat) (hlt : ∀ a b, f a b < fieldPrime)
    (hfg : ∀ a b, a < fieldPrime → b < fieldPrime → f a b = g a b) (s : State) (rd rs1 rs2 : GenReg) :
    ∃ t, finish s (fieldBinary f rd rs1 rs2 s) = .next t ∧
      if readScalar s rs1 < fieldPrime ∧ readScalar s rs2 < fieldPrime then
        Completed 0 s t ∧ (t.gpr[rd.val]).toNat = g (readScalar s rs1) (readScalar s rs2) ∧ WritesOnlyGpr rd s t
      else Completed 2 s t ∧ WritesNothing s t := by
  by_cases h : readScalar s rs1 < fieldPrime ∧ readScalar s rs2 < fieldPrime
  · simp only [if_pos h, fieldBinary_inRange f rd rs1 rs2 s h, ← hfg _ _ h.1 h.2]
    exact finish_setGpr_spec s rd (hlt _ _)
  · simp only [if_neg h, fieldBinary_outOfRange f rd rs1 rs2 s h]
    exact finish_error_spec s .range

/-- FSQR rd, rs is FMUL rd, rs, rs (40_field R136). -/
theorem execFsqr_eq_execFmul (rd rs : GenReg) (s : State) : execFsqr rd rs s = execFmul rd rs rs s := by
  simp only [execFsqr, execFmul, fieldBinary, Bool.and_self]

theorem execFinv_outOfRange {rs : GenReg} {s : State} (rd : GenReg) (h : ¬ readScalar s rs < fieldPrime) :
    execFinv rd rs s = finish s (.error .range) := by
  simp only [execFinv, inRange_iff, if_neg h]

theorem execFinv_zero {rs : GenReg} {s : State} (rd : GenReg) (h : readScalar s rs < fieldPrime)
    (h0 : readScalar s rs = 0) : execFinv rd rs s = finish s (.error .noInv) := by
  simp only [execFinv, inRange_iff, if_pos h, if_pos h0]

theorem execFinv_nonzero {rs : GenReg} {s : State} (rd : GenReg) (h : readScalar s rs < fieldPrime)
    (h0 : readScalar s rs ≠ 0) :
    execFinv rd rs s = finish s (.ok (s.setGpr rd (BitVec.ofNat 256 (invP (readScalar s rs))))) := by
  simp only [execFinv, inRange_iff, if_pos h, if_neg h0]

/-! ### Arithmetic modulo p -/

theorem modP_natCast (n : Nat) : modP n = n % fieldPrime := by
  rw [modP, ← Int.natCast_mod, Int.toNat_natCast]

/-- The two cases of 40_field R134. -/
theorem modP_sub {a b : Nat} (ha : a < fieldPrime) (hb : b < fieldPrime) :
    modP ((a : Int) - b) = if b ≤ a then a - b else a + fieldPrime - b := by
  split
  case isTrue hle => rw [← Nat.cast_sub hle, modP_natCast, Nat.mod_eq_of_lt (by omega)]
  case isFalse hlt =>
    have hshift : ((a : Int) - b) % fieldPrime = ((a + fieldPrime - b : Nat) : Int) % fieldPrime := by
      rw [Nat.cast_sub (by omega), Nat.cast_add, add_sub_right_comm, Int.add_emod_right]
    calc modP ((a : Int) - b) = modP ((a + fieldPrime - b : Nat) : Int) := congrArg Int.toNat hshift
      _ = (a + fieldPrime - b) % fieldPrime := modP_natCast _
      _ = a + fieldPrime - b := Nat.mod_eq_of_lt (by omega)

/-- invP is the power with exponent p - 2 (40_field R137). -/
theorem invP_eq_pow_mod (a : Nat) : invP a = a ^ (fieldPrime - 2) % fieldPrime := by
  have hpow := powBits_cast (R := ZMod fieldPrime) prime_cast_zmod (modP a) 0 (bitsMsbFirst 256 (fieldPrime - 2)) 1
    (by simp)
  rw [bitsValue_self (by decide), modP_zmod, Int.cast_natCast, ← Nat.cast_pow, ZMod.natCast_eq_natCast_iff'] at hpow
  rw [← hpow]
  exact (Nat.mod_eq_of_lt (invP_lt a)).symm

/-- invP a is the one residue whose product with a is 1 modulo p (40_field R137). -/
theorem mul_mod_eq_one_iff {a x : Nat} (h0 : a ≠ 0) (ha : a < fieldPrime) (hx : x < fieldPrime) :
    a * x % fieldPrime = 1 ↔ x = invP a := by
  have := prime_fact
  have hne : (a : ZMod fieldPrime) ≠ 0 := by rwa [Ne, ← ZMod.val_eq_zero, val_cast_of_lt ha]
  have hone : a * x % fieldPrime = 1 ↔ ((a * x : Nat) : ZMod fieldPrime) = (1 : Nat) := by
    rw [ZMod.natCast_eq_natCast_iff', Nat.mod_eq_of_lt (by decide : 1 < fieldPrime)]
  calc a * x % fieldPrime = 1
    _ ↔ (x : ZMod fieldPrime) = (invP a : ZMod fieldPrime) := by
      rw [hone, invP_zmod, Int.cast_natCast, ← mul_eq_one_iff_eq_inv₀ hne, Nat.cast_mul, Nat.cast_one, mul_comm]
    _ ↔ x = invP a := by
      rw [ZMod.natCast_eq_natCast_iff', Nat.mod_eq_of_lt hx, Nat.mod_eq_of_lt (invP_lt a)]

theorem mul_invP_mod {a : Nat} (h0 : a ≠ 0) (ha : a < fieldPrime) : a * invP a % fieldPrime = 1 :=
  (mul_mod_eq_one_iff h0 ha (invP_lt a)).2 rfl

theorem invP_pos {a : Nat} (h0 : a ≠ 0) (ha : a < fieldPrime) : 1 ≤ invP a := by
  refine Nat.one_le_iff_ne_zero.2 fun hzero => ?_
  simpa [hzero] using mul_invP_mod h0 ha

end Sys2Proof.Machine

namespace Sys2Proof.Proofs

open Sys2Proof.Machine Sys2Proof.Safety Sys2Proof.Laws.Curve

/-- Settles O14: on residues the representative of the sum is its remainder. -/
theorem faddAddsModP : Obligations.FaddAddsModP :=
  ⟨fun _ _ _ => wordOf_toNat .., finish_fieldBinary_spec (fun a b => (a + b) % fieldPrime) (fun _ _ => modP_lt _)
    fun a b _ _ => modP_natCast (a + b)⟩

/-- Settles O15: the representative of a difference of residues is R134's two cases. -/
theorem fsubSubtractsModP : Obligations.FsubSubtractsModP :=
  ⟨fun _ _ _ => wordOf_toNat .., finish_fieldBinary_spec (fun a b => if b ≤ a then a - b else a + fieldPrime - b)
    (fun _ _ => modP_lt _) fun _ _ => modP_sub⟩

/-- Settles O16: on residues the representative of the product is its remainder. -/
theorem fmulMultipliesModP : Obligations.FmulMultipliesModP :=
  ⟨fun _ _ _ => wordOf_toNat .., finish_fieldBinary_spec (fun a b => a * b % fieldPrime) (fun _ _ => modP_lt _)
    fun a b _ _ => modP_natCast (a * b)⟩

/-- Settles O17: FSQR is FMUL with one source twice, and FMUL's case for two sources in range is then that for one. -/
theorem fsqrSquaresModP : Obligations.FsqrSquaresModP := by
  refine ⟨fun _ _ => wordOf_toNat .., fun s rd rs => ?_⟩
  have hfmul : exec (.fsqr rd rs) s = exec (.fmul rd rs rs) s := execFsqr_eq_execFmul rd rs s
  obtain ⟨-, hspec⟩ := fmulMultipliesModP
  refine ⟨hfmul, ?_⟩
  rw [hfmul]
  simpa only [and_self] using hspec s rd rs rs

/-- Settles O18, by the three branches of FINV: E_RANGE, E_NOINV, and the inverse, which `mul_mod_eq_one_iff` singles out. -/
theorem finvInvertsModP : Obligations.FinvInvertsModP := by
  refine ⟨fun _ _ => wordOf_toNat .., ?_⟩
  intro s rd rs a
  by_cases hrange : a < fieldPrime
  case neg =>
    obtain ⟨t, hnext, hspec⟩ := finish_error_spec s .range
    exact ⟨t, (execFinv_outOfRange rd hrange).trans hnext, by rwa [if_neg hrange]⟩
  by_cases h0 : a = 0
  case pos =>
    obtain ⟨t, hnext, hspec⟩ := finish_error_spec s .noInv
    exact ⟨t, (execFinv_zero rd hrange h0).trans hnext, by rwa [if_pos hrange, if_pos h0]⟩
  obtain ⟨t, hnext, hcompleted, hvalue, hframe⟩ := finish_setGpr_spec s rd (invP_lt a)
  refine ⟨t, (execFinv_nonzero rd hrange h0).trans hnext, ?_⟩
  rw [if_pos hrange, if_neg h0, hvalue]
  exact ⟨hcompleted, invP_eq_pow_mod a, invP_pos h0 hrange, invP_lt a, mul_invP_mod h0 hrange,
    fun x _ hx hone => (mul_mod_eq_one_iff h0 hrange hx).1 hone, hframe⟩

end Sys2Proof.Proofs

/-! The family of 41_point: the group law and its multiples in the model's own terms, and how a point command ends. -/

namespace Sys2Proof.Machine

open Sys2Proof.Safety Sys2Proof.Laws.Curve Sys2Proof.Laws.GroupOrder

/-! ### The group law (41_point R175, R177) -/

section

variable {q q1 q2 q3 : CurvePoint}

theorem addPoint_assoc (h1 : onCurve q1 = true) (h2 : onCurve q2 = true) (h3 : onCurve q3 = true) :
    addPoint (addPoint q1 q2) q3 = addPoint q1 (addPoint q2 q3) := by
  have := prime_fact
  obtain ⟨P, rfl⟩ := (onCurve_iff q1).1 h1
  obtain ⟨Q, rfl⟩ := (onCurve_iff q2).1 h2
  obtain ⟨R, rfl⟩ := (onCurve_iff q3).1 h3
  simp only [add_fromPoint, add_assoc]

theorem addPoint_comm (h1 : onCurve q1 = true) (h2 : onCurve q2 = true) : addPoint q1 q2 = addPoint q2 q1 := by
  have := prime_fact
  obtain ⟨P, rfl⟩ := (onCurve_iff q1).1 h1
  obtain ⟨Q, rfl⟩ := (onCurve_iff q2).1 h2
  simp only [add_fromPoint, add_comm]

/-- Neg is the group's negation: the residue of p - y is that of -y. -/
theorem negPoint_fromPoint [Fact fieldPrime.Prime] (P : curve.Point) : negPoint (fromPoint P) = fromPoint (-P) := by
  cases P with
  | zero => rfl
  | some x y hP =>
    have hneg : modP ((fieldPrime : Int) - y.val) = (-y).val := by
      rw [modP_eq_val, Int.cast_sub, Int.cast_natCast, Int.cast_natCast, prime_cast_zmod, zero_sub, cast_val]
    rw [WeierstrassCurve.Affine.Point.neg_some]
    simp only [fromPoint, negPoint, hneg, WeierstrassCurve.Affine.negY, curve, zero_mul, sub_zero]

theorem addPoint_negPoint (h : onCurve q = true) : addPoint q (negPoint q) = .infinity := by
  have := prime_fact
  obtain ⟨P, rfl⟩ := (onCurve_iff q).1 h
  rw [negPoint_fromPoint, add_fromPoint, add_neg_cancel]
  rfl

/-- The double of a point with y = 0 would be O, and the group has no point of order 2 (41_point R181). -/
theorem ordinate_ne_zero {x y : Nat} (h : onCurve (.affine x y) = true) : y ≠ 0 := by
  rintro rfl
  have := prime_fact
  obtain ⟨P, hP⟩ := (onCurve_iff _).1 h
  have hne : P ≠ 0 := by
    rintro rfl
    cases hP
  refine two_nsmul_ne_zero hne (fromPoint_injective ?_)
  rw [two_nsmul, ← double_fromPoint, hP]
  rfl

end

/-! ### Multiples of a point (41_point R178) -/

section

variable {q : CurvePoint} (h : onCurve q = true)

include h

theorem onCurve_scalarMultiple (k : Nat) : onCurve (scalarMultiple k q) = true := by
  induction k with
  | zero => rfl
  | succ k ih => exact onCurve_addPoint ih h

/-- The ladder computes k·Q (41_point R199, log 10). -/
theorem ladderMultiple_eq_scalarMultiple {k : Nat} (hk : k < 2 ^ 256) : ladderMultiple k q = scalarMultiple k q := by
  have := prime_fact
  obtain ⟨P, rfl⟩ := (onCurve_iff q).1 h
  rw [ladderMultiple_fromPoint hk, scalarMultiple_fromPoint]

theorem scalarMultiple_mod_groupOrder (k : Nat) : scalarMultiple k q = scalarMultiple (k % groupOrder) q := by
  have := prime_fact
  obtain ⟨P, rfl⟩ := (onCurve_iff q).1 h
  rw [scalarMultiple_fromPoint, scalarMultiple_fromPoint, ← nsmul_eq_mod_nsmul k (groupOrder_nsmul P)]

theorem scalarMultiple_groupOrder : scalarMultiple groupOrder q = .infinity := by
  rw [scalarMultiple_mod_groupOrder h, Nat.mod_self, scalarMultiple]

theorem scalarMultiple_eq_infinity_iff (hne : q ≠ .infinity) (k : Nat) :
    scalarMultiple k q = .infinity ↔ k % groupOrder = 0 := by
  have := prime_fact
  obtain ⟨P, rfl⟩ := (onCurve_iff q).1 h
  have hP : P ≠ 0 := fun hzero => hne (congrArg fromPoint hzero)
  calc scalarMultiple k (fromPoint P) = .infinity
    _ ↔ fromPoint (k • P) = fromPoint 0 := by rw [scalarMultiple_fromPoint]; rfl
    _ ↔ k • P = 0 := fromPoint_injective.eq_iff
    _ ↔ k % groupOrder = 0 := by rw [nsmul_eq_zero_iff hP, Nat.dvd_iff_mod_eq_zero]

theorem scalarMultiple_comm (j k : Nat) :
    scalarMultiple j (scalarMultiple k q) = scalarMultiple k (scalarMultiple j q) := by
  have := prime_fact
  obtain ⟨P, rfl⟩ := (onCurve_iff q).1 h
  simp only [scalarMultiple_fromPoint, nsmul_left_comm]

end

theorem onCurve_basePoint : onCurve basePoint = true := by
  have := prime_fact
  exact (onCurve_iff basePoint).2 exists_basePoint

/-! ### The check of a stored triple (41_point R174, R183) -/

/-- The curve equation on naturals, without the subtraction that OnCurve makes. -/
theorem onCurve_affine (x y : Nat) : onCurve (.affine x y) = decide (x < fieldPrime ∧ y < fieldPrime ∧
    y * y % fieldPrime = (x * x * x + curveA * x + curveB) % fieldPrime) := by
  have heq : modP ((y * y : Int) - (x * x * x + curveA * x + curveB)) = 0 ↔
      y * y % fieldPrime = (x * x * x + curveA * x + curveB) % fieldPrime := by
    rw [modP_eq_val, ZMod.val_eq_zero, ← ZMod.natCast_eq_natCast_iff']
    push_cast
    exact sub_eq_zero
  rw [Bool.eq_iff_iff, decide_eq_true_eq, ← heq]
  simp only [onCurve, Bool.and_eq_true, decide_eq_true_eq, beq_iff_eq, and_assoc]

theorem onCurve_pointOf (t : PointTriple) : onCurve (pointOf t) = (t.inf || decide (t.x.toNat < fieldPrime ∧
    t.y.toNat < fieldPrime ∧ t.y.toNat * t.y.toNat % fieldPrime =
      (t.x.toNat * t.x.toNat * t.x.toNat + curveA * t.x.toNat + curveB) % fieldPrime)) := by
  cases hinf : t.inf with
  | true => rw [pointOf, if_pos hinf, Bool.true_or]; rfl
  | false => rw [pointOf, if_neg (by simp [hinf]), Bool.false_or, onCurve_affine]

theorem pointOf_bne_infinity (t : PointTriple) : (pointOf t != .infinity) = !t.inf := by
  cases hinf : t.inf <;> simp [pointOf, hinf]

/-- A stored triple with inf = 1 is the canonical infinity (41_point R173). -/
theorem storePoint_of_inf {q : CurvePoint} (h : (storePoint q).inf = true) : storePoint q = ⟨0, 0, true⟩ := by
  cases q with
  | infinity => rfl
  | affine x y => cases h

/-! ### Reading the operands after a point command -/

theorem readPoint_of_pts {s : State} {pd : PointReg} {q : CurvePoint} (hq : onCurve q = true)
    (h : s.pts[pd.val] = storePoint q) : readPoint s pd = q := by
  rw [readPoint, h, pointOf_storePoint hq]

section

variable (s : State) (pd : PointReg)

@[simp] theorem readPoint_complete (c : Code) (i : PointReg) : readPoint (s.complete c) i = readPoint s i := rfl

@[simp] theorem readScalar_complete (c : Code) (i : GenReg) : readScalar (s.complete c) i = readScalar s i := rfl

@[simp] theorem readScalar_setPoint (v : PointTriple) (i : GenReg) :
    readScalar (s.setPoint pd v) i = readScalar s i := rfl

theorem setPoint_pts_same (v : PointTriple) : (s.setPoint pd v).pts[pd.val] = v := by simp

theorem readPoint_setPoint {q : CurvePoint} (hq : onCurve q = true) :
    readPoint (s.setPoint pd (storePoint q)) pd = q :=
  readPoint_of_pts hq (setPoint_pts_same s pd _)

/-! ### How a point command ends -/

/-- A point command whose sources pass their check writes the stored form of its result and nothing else, or it completes
with E_INVPOINT. -/
theorem finish_pointCommand_spec (valid : Bool) (q : CurvePoint) :
    ∃ t, finish s (if valid = true then .ok (s.setPoint pd (storePoint q)) else .error .invPoint) = .next t ∧
      if valid = true then Completed 0 s t ∧ t.pts[pd.val] = storePoint q ∧ WritesOnlyPoint pd s t
      else Completed 4 s t ∧ WritesNothing s t := by
  cases valid with
  | true => exact ⟨_, rfl, completed_after s rfl, setPoint_pts_same s pd _, writesOnlyPoint_complete s pd _ .ok⟩
  | false => exact finish_error_spec s .invPoint

/-- PMUL of a point of the curve leaves k·Q in pd. -/
theorem exec_pmul_of_onCurve (rk : GenReg) {ps : PointReg} (h : onCurve (readPoint s ps) = true) :
    exec (.pmul pd rk ps) s =
      .next ((s.setPoint pd (storePoint (scalarMultiple (readScalar s rk) (readPoint s ps)))).complete .ok) := by
  rw [exec, execPmul, if_pos h, ladderMultiple_eq_scalarMultiple h (readScalar_lt s rk), finish_ok]

theorem exec_pldg : exec (.pldg pd) s = .next ((s.setPoint pd (storePoint basePoint)).complete .ok) := rfl

theorem exec_pchk (ps : PointReg) : exec (.pchk ps) s = .next ((s.setCheck (onCurve (readPoint s ps))
    (onCurve (readPoint s ps) && readPoint s ps != .infinity)).complete .ok) := rfl

end

/-- PMUL by rb and then by ra, through pd, leaves a·(b·Q) there (41_point R201). -/
theorem pts_after_pmul_pmul {s s1 t : State} {pd ps : PointReg} {ra rb : GenReg}
    (h : onCurve (readPoint s ps) = true) (h1 : exec (.pmul pd rb ps) s = .next s1)
    (h2 : exec (.pmul pd ra pd) s1 = .next t) :
    t.pts[pd.val] = storePoint (scalarMultiple (readScalar s ra) (scalarMultiple (readScalar s rb) (readPoint s ps))) ∧
      t.lastErr = 0 := by
  have hon := onCurve_scalarMultiple h (readScalar s rb)
  rw [exec_pmul_of_onCurve s pd rb h] at h1
  cases h1
  rw [exec_pmul_of_onCurve _ pd ra (by rwa [readPoint_complete, readPoint_setPoint s pd hon])] at h2
  cases h2
  refine ⟨?_, rfl⟩
  simp only [State.complete_pts, setPoint_pts_same, readPoint_complete, readPoint_setPoint s pd hon, readScalar_complete,
    readScalar_setPoint]

/-! ### What a command's writes store in a point register -/

theorem eq_of_setPoint_pts_ne {s : State} {pd r : PointReg} {v : PointTriple}
    (h : (s.setPoint pd v).pts[r.val] ≠ s.pts[r.val]) : r = pd := by
  by_contra hne
  exact h ((writesOnlyPoint_complete s pd v .ok).pts r hne)

/-- A command's writes that change P[r] are a point command's with destination r, and store a point of the curve. -/
theorem commandWrites_point {s u : State} {i : Instr} {r : PointReg} (h : CommandWrites s u i)
    (hne : u.pts[r.val] ≠ s.pts[r.val]) :
    (∃ q, onCurve q = true ∧ u.pts[r.val] = storePoint q) ∧
    ∃ ps1 ps2 rk, i = .padd r ps1 ps2 ∨ i = .pdbl r ps1 ∨ i = .pmul r rk ps1 ∨ i = .pldg r := by
  cases i with
  | nop | pchk | zinit =>
    obtain rfl := h
    exact absurd rfl hne
  | fadd | fsub | fmul | fsqr | finv =>
    obtain ⟨_, -, rfl⟩ := h
    exact absurd rfl hne
  | zgen | zxor =>
    obtain ⟨-, rfl⟩ := h
    exact absurd rfl hne
  | padd pd | pdbl pd | pmul pd | pldg pd =>
    obtain ⟨q, hq, rfl⟩ := h
    obtain rfl := eq_of_setPoint_pts_ne hne
    exact ⟨⟨q, hq, setPoint_pts_same s r _⟩, by simp⟩

/-! ### Malformed words -/

/-- A word that does not decode is harmless whatever its opcode (30_encoding R107). -/
theorem malformedIsHarmless (opc : BitVec 8) : MalformedIsHarmless opc := fun s hbusy _ hillegal =>
  ⟨_, engineTurn_of_not_decoded hbusy hillegal, completed_complete s .illegal, writesNothing_complete s .illegal⟩

end Sys2Proof.Machine

namespace Sys2Proof.Proofs

open Sys2Proof.Machine Sys2Proof.Safety

/-- Settles O31: the model's addition is the addition of Mathlib's group of points. -/
theorem pointAdditionIsAGroupLaw : Obligations.PointAdditionIsAGroupLaw := fun _ _ _ h1 h2 h3 =>
  ⟨addPoint_assoc h1 h2 h3, addPoint_comm h1 h2, addPoint_negPoint h1, rfl⟩

/-- Settles O28: the group of points has the prime order n. -/
theorem multiplesRepeatWithTheOrder : Obligations.MultiplesRepeatWithTheOrder := fun _ h =>
  ⟨rfl, fun _ => rfl, scalarMultiple_mod_groupOrder h, scalarMultiple_eq_infinity_iff h⟩

/-- Settles O19: PADD's check is the conjunction of its sources' checks. -/
theorem paddWritesTheSum : Obligations.PaddWritesTheSum := by
  refine ⟨fun pd ps1 ps2 => by simp [encode, wordOf_toNat, pointBits_toNat], fun s pd ps1 ps2 => ?_⟩
  obtain ⟨t, hnext, hspec⟩ := finish_pointCommand_spec s pd (onCurve (readPoint s ps1) && onCurve (readPoint s ps2))
    (addPoint (readPoint s ps1) (readPoint s ps2))
  exact ⟨t, hnext, by simpa only [Bool.and_eq_true] using hspec⟩

/-- Settles O20: the group has no point of order 2. -/
theorem pdblWritesTheDouble : Obligations.PdblWritesTheDouble :=
  ⟨fun pd ps => by simp [encode, wordOf_toNat, pointBits_toNat], fun _ _ => ordinate_ne_zero,
    fun s pd ps => finish_pointCommand_spec s pd (onCurve (readPoint s ps)) (doublePoint (readPoint s ps))⟩

/-- Settles O21: on the curve the ladder computes the k-fold sum, and the order of the group is n. -/
theorem pmulWritesTheMultiple : Obligations.PmulWritesTheMultiple := by
  refine ⟨fun pd rk ps => by simp [encode, wordOf_toNat, pointBits_toNat, genBits_toNat], fun s pd rk ps => ?_⟩
  intro k q
  obtain ⟨t, hnext, hspec⟩ := finish_pointCommand_spec s pd (onCurve q) (ladderMultiple k q)
  refine ⟨t, hnext, ?_⟩
  by_cases hon : onCurve q = true
  · rw [if_pos hon] at hspec ⊢
    obtain ⟨hcompleted, hvalue, hframe⟩ := hspec
    rw [ladderMultiple_eq_scalarMultiple hon (s.gpr[rk.val]).isLt] at hvalue
    exact ⟨hcompleted, hvalue, by rw [hvalue, ← scalarMultiple_mod_groupOrder hon], hframe⟩
  · rwa [if_neg hon] at hspec ⊢

/-- Settles O22: OnCurve of the triple's value is its inf bit or the curve equation, and n kills every point. -/
theorem pchkReportsTheCheck : Obligations.PchkReportsTheCheck := by
  refine ⟨fun ps => by simp [encode, wordOf_toNat, pointBits_toNat], malformedIsHarmless 0x23, fun s ps => ?_⟩
  refine ⟨_, exec_pchk s ps, completed_after s rfl, onCurve_pointOf _,
    congrArg (onCurve (readPoint s ps) && ·) (pointOf_bne_infinity _), fun hpkv => ?_, rfl, rfl, ⟨rfl, rfl, rfl, rfl⟩,
    ⟨rfl, rfl, rfl, rfl, rfl, rfl, rfl, rfl, rfl⟩⟩
  obtain ⟨hon, hne⟩ := Bool.and_eq_true_iff.1 hpkv
  exact ⟨bne_iff_ne.1 hne, scalarMultiple_groupOrder hon⟩

/-- Settles O23: the stored form of the base point is the triple of its numbers. -/
theorem pldgLoadsTheBasePoint : Obligations.PldgLoadsTheBasePoint :=
  ⟨fun pd => by simp [encode, wordOf_toNat, pointBits_toNat], malformedIsHarmless 0x24, fun s pd =>
    ⟨_, exec_pldg s pd, completed_after s rfl, setPoint_pts_same s pd _, writesOnlyPoint_complete s pd _ .ok⟩⟩

/-- Settles O29: multiples of one point commute. -/
theorem sharedPointsAgree : Obligations.SharedPointsAgree := by
  intro s s1 s2 t1 t2 pd ps ra rb hon hs1 ht1 hs2 ht2
  obtain ⟨hvalue1, hok1⟩ := pts_after_pmul_pmul hon hs1 ht1
  obtain ⟨hvalue2, hok2⟩ := pts_after_pmul_pmul hon hs2 ht2
  exact ⟨by rw [hvalue1, hvalue2, scalarMultiple_comm hon], hok1, hok2⟩

/-- Settles O30: d·G is a point of the curve, and it is not O because n does not divide d. -/
theorem generatedKeyPassesTheCheck : Obligations.GeneratedKeyPassesTheCheck := by
  intro s s1 s2 t p0 p1 rd hpos hlt hs1 hs2 ht
  have hG := onCurve_basePoint
  have hon : onCurve (scalarMultiple (readScalar s rd) basePoint) = true := onCurve_scalarMultiple hG _
  have hne : scalarMultiple (readScalar s rd) basePoint ≠ .infinity := by
    rw [Ne, scalarMultiple_eq_infinity_iff hG (by simp [basePoint]), readScalar, Nat.mod_eq_of_lt hlt]
    exact Nat.one_le_iff_ne_zero.1 hpos
  rw [exec_pldg] at hs1
  cases hs1
  have hread : readPoint ((s.setPoint p0 (storePoint basePoint)).complete .ok) p0 = basePoint := by
    rw [readPoint_complete, readPoint_setPoint s p0 hG]
  rw [exec_pmul_of_onCurve _ p1 rd (by rw [hread, hG]), hread, readScalar_complete, readScalar_setPoint] at hs2
  cases hs2
  rw [exec_pchk, readPoint_complete, readPoint_setPoint _ p1 hon] at ht
  cases ht
  exact ⟨hon, Bool.and_eq_true_iff.2 ⟨hon, bne_iff_ne.2 hne⟩, rfl⟩

/-- Settles O32: what a command's writes store in a point register is the stored form of a point of the curve. -/
theorem pointCommandsStoreCurvePoints : Obligations.PointCommandsStoreCurvePoints := by
  intro s t i hexec r hne
  rcases exec_cases hexec with ⟨c, -, rfl⟩ | ⟨u, hu, rfl⟩
  · exact absurd rfl hne
  obtain ⟨⟨q, hq, hvalue⟩, hcommand⟩ := commandWrites_point hu hne
  refine ⟨⟨?_, fun hinf => ?_⟩, hcommand⟩
  · rw [readPoint_complete, readPoint_of_pts hq hvalue, hq]
  · rw [State.complete_pts, hvalue] at hinf ⊢
    exact storePoint_of_inf hinf

end Sys2Proof.Proofs

/-! The family of 42_zuc: the LFSR's cells under each operation of the ZUC unit, and how a ZUC command ends. -/

namespace Sys2Proof.Machine

open Sys2Proof.Safety

/-! ### The LFSR's cells (42_zuc R220, R224, R230) -/

theorem m31_eq : m31 = 2147483647 := rfl

theorem lfsrFeedback_lt (z : ZucState) : lfsrFeedback z < m31 := Nat.mod_lt _ (by decide)

theorem cellOf_toNat {v : Nat} (h : v < m31) : (cellOf v).toNat = if v = 0 then m31 else v := by
  rw [cellOf, BitVec.toNat_ofNat, Nat.mod_eq_of_lt]
  rw [m31_eq] at h ⊢
  split <;> omega

/-- A cell stands for a field element by its representative in [1, M31] (R220). -/
theorem cellOf_range {v : Nat} (h : v < m31) : 1 ≤ (cellOf v).toNat ∧ (cellOf v).toNat ≤ m31 := by
  rw [cellOf_toNat h]
  rw [m31_eq] at h ⊢
  split <;> omega

theorem cellOf_toNat_mod {v : Nat} (h : v < m31) : (cellOf v).toNat % m31 = v := by
  rw [cellOf_toNat h]
  split
  case isTrue h0 => rw [Nat.mod_self, h0]
  case isFalse => exact Nat.mod_eq_of_lt h

theorem cellOf_ne_zero {v : Nat} (h : v < m31) : cellOf v ≠ 0 := by
  obtain ⟨hpos, -⟩ := cellOf_range h
  exact fun h0 => by simp [h0] at hpos

theorem keyLoad_cells (key iv : Vector Word 4) (i : Fin 16) : (keyLoad key iv).cells[i.val] = loadCell key iv i := by
  simp [keyLoad]

theorem loadCell_middle (key iv : Vector Word 4) (i : Fin 16) :
    (loadCell key iv i).extractLsb' 8 15 = loadConstants[i.val] := by
  rw [loadCell, BitVec.extractLsb'_append_eq_of_le le_rfl]
  exact BitVec.extractLsb'_append_eq_right

theorem shiftIn_cells_lower (z : ZucState) (c : LfsrCell) (i : Fin 15) :
    (shiftIn z c).cells[i.val] = z.cells[i.val + 1] := by
  fin_cases i <;> rfl

/-! ### No cell is 0 (42_zuc R235) -/

/-- Every cell lies in [1, M31]. -/
def ZucState.NoCellZero (z : ZucState) : Prop :=
  ∀ i : Fin 16, z.cells[i.val] ≠ 0

theorem cellsNonZero_iff (s : State) : CellsNonZero s ↔ (s.zrdy = true → s.zuc.NoCellZero) := Iff.rfl

/-- A loaded cell holds d_i in its middle, and no d_i is 0 (R223, R224). -/
theorem noCellZero_keyLoad (key iv : Vector Word 4) : (keyLoad key iv).NoCellZero := by
  intro i h0
  have hconstants : ∀ j : Fin 16, loadConstants[j.val] ≠ 0 := by decide
  rw [keyLoad_cells] at h0
  exact hconstants i (by rw [← loadCell_middle key iv i, h0]; rfl)

theorem noCellZero_shiftIn {z : ZucState} {c : LfsrCell} (hz : z.NoCellZero) (hc : c ≠ 0) :
    (shiftIn z c).NoCellZero := by
  intro i
  cases i using Fin.lastCases with
  | last => exact hc
  | cast j => exact shiftIn_cells_lower z c j ▸ hz j.succ

theorem noCellZero_fUpdate {z : ZucState} (hz : z.NoCellZero) : (fUpdate z).NoCellZero := hz

theorem noCellZero_initRound {z : ZucState} (hz : z.NoCellZero) : (initRound z).NoCellZero :=
  noCellZero_shiftIn (noCellZero_fUpdate hz) (cellOf_ne_zero (Nat.mod_lt _ (by decide)))

theorem noCellZero_keystreamNext {z : ZucState} (hz : z.NoCellZero) : (keystreamNext z).NoCellZero :=
  noCellZero_shiftIn (noCellZero_fUpdate hz) (cellOf_ne_zero (lfsrFeedback_lt _))

theorem initRounds_eq_iterate (n : Nat) (z : ZucState) : initRounds n z = initRound^[n] z := by
  induction n generalizing z with
  | zero => rfl
  | succ n ih => rw [initRounds, ih, Function.iterate_succ_apply]

theorem noCellZero_initRounds (n : Nat) {z : ZucState} (hz : z.NoCellZero) : (initRounds n z).NoCellZero := by
  induction n generalizing z with
  | zero => exact hz
  | succ n ih => exact ih (noCellZero_initRound hz)

theorem noCellZero_zucInit (key iv : Vector Word 4) : (zucInit key iv).NoCellZero :=
  noCellZero_keystreamNext (noCellZero_initRounds 32 (noCellZero_keyLoad key iv))

/-! ### How a ZUC command ends -/

theorem exec_zinit (s : State) : exec .zinit s = .next ((s.setZucReady (zucInit s.key s.iv)).complete .ok) := rfl

theorem exec_zgen_of_ready {s : State} (h : s.zrdy = true) :
    exec .zgen s = .next ((s.setZout (keystreamWord s.zuc) (keystreamNext s.zuc)).complete .ok) := by
  rw [exec, execZgen, if_pos h, finish_ok]

theorem exec_zgen_of_not_ready {s : State} (h : ¬ s.zrdy = true) : exec .zgen s = .next (s.complete .notInit) := by
  rw [exec, execZgen, if_neg h, finish_error]

theorem exec_zxor_of_ready {s : State} {n : BitVec 3} (hn : n ∈ [1, 2, 3, 4]) (h : s.zrdy = true) :
    exec (.zxor n) s = .next ((s.setDout ((s.din ^^^ keystreamWord s.zuc) &&& topBytesMask n)
      (keystreamNext s.zuc)).complete .ok) := by
  rw [exec, execZxor, if_pos ((byteCountLegal_iff n).2 hn), if_pos h, finish_ok]

theorem exec_zxor_of_not_ready {s : State} {n : BitVec 3} (hn : n ∈ [1, 2, 3, 4]) (h : ¬ s.zrdy = true) :
    exec (.zxor n) s = .next (s.complete .notInit) := by
  rw [exec, execZxor, if_pos ((byteCountLegal_iff n).2 hn), if_neg h, finish_error]

/-! ### What keeps the cells in range -/

theorem cellsNonZero_of_zucKept {s t : State} (hkept : ZucKept s t) (hs : CellsNonZero s) : CellsNonZero t := by
  rw [cellsNonZero_iff, hkept.zrdy, hkept.zuc]
  exact hs

theorem cellsNonZero_of_isReset {s t : State} (h : IsReset s t) : CellsNonZero t := by
  obtain ⟨_, rfl⟩ := h
  exact fun hready => absurd hready Bool.false_ne_true

/-- A ZUC command loads the cells afresh or moves them on one work step, or it leaves them (42_zuc R232, R233). -/
theorem cellsNonZero_of_exec {s t : State} {i : Instr} (hi : IsZucCommand i) (h : exec i s = .next t)
    (hs : CellsNonZero s) : CellsNonZero t := by
  rcases exec_cases h with ⟨c, -, rfl⟩ | ⟨u, hu, rfl⟩
  · exact hs
  rcases hi with rfl | rfl | ⟨n, rfl⟩
  · obtain rfl := hu
    exact fun _ => noCellZero_zucInit s.key s.iv
  all_goals
    obtain ⟨hready, rfl⟩ := hu
    exact fun _ => noCellZero_keystreamNext (hs hready)

end Sys2Proof.Machine

namespace Sys2Proof.Proofs

open Sys2Proof.Machine Sys2Proof.Safety

/-- Settles O52: the loaded cells are not 0, and each LFSR step shifts in a cell that is not 0. -/
theorem stepKeepsCellsNonZero : Obligations.StepKeepsCellsNonZero := by
  intro s t hs hstep
  rcases step_completes_resets_or_keeps hstep with ⟨-, hcomplete⟩ | hreset | hkept
  · rcases completeCommand_zuc hcomplete with hkept | ⟨-, i, -, hi, hexec⟩
    · exact cellsNonZero_of_zucKept hkept hs
    · exact cellsNonZero_of_exec hi hexec hs
  · exact cellsNonZero_of_isReset hreset
  · exact cellsNonZero_of_zucKept hkept.zuc hs

/-- Settles O24: the loaded state is `keyLoad`'s, and the 32 rounds are an iterate of one. -/
theorem zinitInitialises : Obligations.ZinitInitialises := by
  refine ⟨by decide, malformedIsHarmless 0x30, fun s => ?_⟩
  refine ⟨keyLoad s.key s.iv, _, exec_zinit s, completed_after s rfl, rfl, keyLoad_cells _ _, rfl, rfl, ?_, rfl, rfl,
    writesOnlyZuc_setZucReady s _ .ok⟩
  rw [State.complete_zuc, State.setZucReady_zuc, zucInit, initRounds_eq_iterate]
  rfl

/-- Settles O25, by ZRDY. -/
theorem zgenDrawsTheNextWord : Obligations.ZgenDrawsTheNextWord := by
  refine ⟨by decide, fun s => ?_⟩
  by_cases hready : s.zrdy = true
  · refine ⟨_, exec_zgen_of_ready hready, ?_⟩
    rw [if_pos hready]
    exact ⟨completed_after s rfl, rfl, rfl, hready, rfl, writesOnlyZuc_setZout s _ _ .ok⟩
  · refine ⟨_, exec_zgen_of_not_ready hready, ?_⟩
    rw [if_neg hready]
    exact ⟨completed_complete s .notInit, writesNothing_complete s .notInit⟩

/-- Settles O33: the new cell is `cellOf` of the recurrence's remainder. -/
theorem lfsrStepIsTheRecurrence : Obligations.LfsrStepIsTheRecurrence := by
  intro z
  obtain ⟨hpos, hle⟩ := cellOf_range (lfsrFeedback_lt z)
  exact ⟨shiftIn_cells_lower z _, hpos, hle, cellOf_toNat_mod (lfsrFeedback_lt z), rfl, rfl⟩

/-- Settles O34: ZINIT's ZUC state is a function of KEY and IV, and ZGEN and ZXOR draw the same word and step alike. -/
theorem keystreamIsAFunctionOfKeyAndIv : Obligations.KeystreamIsAFunctionOfKeyAndIv := by
  refine ⟨fun s1 s2 t1 t2 hkey hiv h1 h2 => ?_, fun s1 s2 t1 t2 n hn hzuc hzrdy h1 h2 => ?_⟩
  · rw [exec_zinit] at h1 h2
    cases h1
    cases h2
    simp only [State.complete_zuc, State.setZucReady_zuc, hkey, hiv, State.complete_zrdy, State.setZucReady_zrdy,
      and_self]
  by_cases hready : s1.zrdy = true
  · rw [exec_zgen_of_ready hready] at h1
    rw [exec_zxor_of_ready hn (hzrdy ▸ hready), ← hzuc] at h2
    cases h1
    cases h2
    exact ⟨rfl, fun _ => rfl⟩
  · rw [exec_zgen_of_not_ready hready] at h1
    rw [exec_zxor_of_not_ready hn (hzrdy ▸ hready)] at h2
    cases h1
    cases h2
    exact ⟨hzuc, fun h => absurd h hready⟩

end Sys2Proof.Proofs

/-! The family of 43_xor: the bytes that ZXOR's mask keeps, and how ZXOR ends for a count it does not take. -/

namespace Sys2Proof.Machine

/-! ### ZXOR's mask, byte by byte (43_xor R270, R271) -/

/-- Byte m, at bits 31 - 8m down to 24 - 8m, is one of the top n bytes or lies below the mask. -/
theorem topBytesMask_byte {n : BitVec 3} (hn : n ∈ [1, 2, 3, 4]) {m : Nat} (hm : m < 4) :
    (topBytesMask n).extractLsb' (24 - 8 * m) 8 = if m < n.toNat then BitVec.allOnes 8 else 0 := by
  apply BitVec.eq_of_getLsbD_eq
  intro i hi
  rw [BitVec.getLsbD_extractLsb', topBytesMask_getLsbD hn (by omega)]
  split
  case isTrue hkept =>
    have hbit : 32 - 8 * n.toNat ≤ 24 - 8 * m + i := by omega
    rw [decide_eq_true hbit, Bool.and_true, BitVec.getLsbD_allOnes]
  case isFalse hcleared =>
    have hbit : ¬ 32 - 8 * n.toNat ≤ 24 - 8 * m + i := by omega
    rw [decide_eq_false hbit, Bool.and_false]
    exact BitVec.getLsbD_zero.symm

theorem xor_and_topBytesMask_byte (d k : Word) {n : BitVec 3} (hn : n ∈ [1, 2, 3, 4]) {m : Nat} (hm : m < 4) :
    ((d ^^^ k) &&& topBytesMask n).extractLsb' (24 - 8 * m) 8 =
      if m < n.toNat then d.extractLsb' (24 - 8 * m) 8 ^^^ k.extractLsb' (24 - 8 * m) 8 else 0 := by
  rw [BitVec.extractLsb'_and, BitVec.extractLsb'_xor, topBytesMask_byte hn hm]
  split
  case isTrue => exact BitVec.and_allOnes
  case isFalse => exact BitVec.and_zero

/-- Encrypting under a mask and decrypting with the same keystream leaves the masked plaintext (R273). -/
theorem xor_and_xor_and_cancel {w : Nat} (d k mask : BitVec w) :
    (((d ^^^ k) &&& mask) ^^^ k) &&& mask = d &&& mask := by
  ext i hi
  simp only [BitVec.getElem_and, BitVec.getElem_xor]
  cases mask[i] with
  | false => simp only [Bool.and_false]
  | true => simp only [Bool.and_true, Bool.xor_assoc, Bool.xor_self, Bool.xor_false]

/-! ### An illegal count -/

/-- ZRDY is not asked: E_ILLEGAL comes before E_NOTINIT (60_exceptions R304). -/
theorem exec_zxor_of_illegal {n : BitVec 3} (hn : n ∉ [1, 2, 3, 4]) (s : State) :
    exec (.zxor n) s = .next (s.complete .illegal) := by
  rw [exec, execZxor, if_neg (mt (byteCountLegal_iff n).1 hn), finish_error]

end Sys2Proof.Machine

namespace Sys2Proof.Proofs

open Sys2Proof.Machine Sys2Proof.Safety

/-- Settles O26, by the count and then ZRDY, in R304's order. -/
theorem zxorXorsTheFirstBytes : Obligations.ZxorXorsTheFirstBytes := by
  refine ⟨fun _ => wordOf_toNat .., malformedIsHarmless 0x32, fun s n => ?_⟩
  by_cases hn : n ∈ [1, 2, 3, 4]
  case neg =>
    refine ⟨_, exec_zxor_of_illegal hn s, ?_⟩
    rw [if_neg hn]
    exact ⟨completed_complete s .illegal, writesNothing_complete s .illegal⟩
  by_cases hready : s.zrdy = true
  · refine ⟨_, exec_zxor_of_ready hn hready, ?_⟩
    rw [if_pos hn, if_pos hready]
    exact ⟨completed_after s rfl, fun _ => xor_and_topBytesMask_byte _ _ hn, rfl, hready, rfl,
      writesOnlyZuc_setDout s _ _ .ok⟩
  · refine ⟨_, exec_zxor_of_not_ready hn hready, ?_⟩
    rw [if_pos hn, if_neg hready]
    exact ⟨completed_complete s .notInit, writesNothing_complete s .notInit⟩

/-- Settles O35: equal ZUC states draw the same word, which cancels under the mask. -/
theorem zxorTwiceRestoresTheBlock : Obligations.ZxorTwiceRestoresTheBlock := by
  intro s1 s2 t1 t2 n hn hready1 hready2 hzuc h1 hdin h2
  rw [exec_zxor_of_ready hn hready1] at h1
  rw [exec_zxor_of_ready hn hready2, hdin, ← hzuc] at h2
  cases h1
  cases h2
  exact ⟨xor_and_xor_and_cancel .., rfl⟩

end Sys2Proof.Proofs

/-! The family of 44_control: NOP's completion, and the one word of its opcode that decodes. -/

namespace Sys2Proof.Machine

/-- NOP's completion follows no write (44_control R290). -/
theorem exec_nop (s : State) : exec .nop s = .next (s.complete .ok) := rfl

/-- The mask of NOP's row covers the whole word, so that its shape is the word 0 alone (30_encoding R105, R106). -/
theorem eq_zero_of_decode_of_opcode_zero {w : Word} {i : Instr} (hopc : opcodeOf w = 0x00) (hdec : decode w = .ok i) :
    w = 0 := by
  obtain ⟨row, hrow, hshape, -, -⟩ := decode_eq_ok_iff.1 hdec
  rw [hopc] at hrow
  obtain rfl := Option.some.inj hrow
  exact BitVec.and_allOnes.symm.trans hshape

end Sys2Proof.Machine

namespace Sys2Proof.Proofs

open Sys2Proof.Machine Sys2Proof.Safety

/-- Settles O13: NOP is its completion alone, and a word of its opcode that decodes is 0. -/
theorem nopOnlyCompletes : Obligations.NopOnlyCompletes :=
  ⟨fun s => ⟨_, exec_nop s, completed_complete s .ok, writesNothing_complete s .ok⟩, by decide,
    fun _ hopc hne _ hdec => hne (eq_zero_of_decode_of_opcode_zero hopc hdec), malformedIsHarmless 0x00⟩

end Sys2Proof.Proofs

/-! The family of 60_exceptions: acceptance and the turn of the engine, completion codes, locked writes, IRQ, secrets. -/

namespace Sys2Proof.Machine

open Sys2Proof.Safety

/-! ### A step by its first input, and the engine's turn (60_exceptions R301, log 2) -/

theorem step_of_inputs_nil {s : State} (h : s.inputs = []) : step s = engineTurn s := by
  rw [step, h]

theorem step_of_inputs_cons {s : State} {e : Input} {rest : List Input} (h : s.inputs = e :: rest) :
    step s = runInput { s with inputs := rest } e := by
  rw [step, h, State.dropInput, h, List.tail_cons]

theorem engineTurn_of_decoded {s : State} {i : Instr} (hbusy : s.inflight = true) (hdec : decode s.cmdl = .ok i) :
    engineTurn s = exec i s := by
  rw [engineTurn, if_pos hbusy, completeCommand, hdec]

/-! ### Locked writes and acceptance (60_exceptions R300, 20_memory R83) -/

/-- A locked write while BUSY = 1 only sets WERR. -/
theorem hostWrite_locked {s : State} {off : Nat} {v : Word} (h4 : off % 4 = 0) (hl : off ≤ 0xFFC)
    (hbusy : s.inflight = true) (hlocked : (windowAt off).lockedWhileBusy = true) :
    hostWrite s off 4 v = .next s.markWerr := by
  rw [hostWrite_word h4 hl, writeWord, if_pos (Bool.and_eq_true_iff.2 ⟨hbusy, hlocked⟩)]

theorem hostWrite_cmd_idle {s : State} (v : Word) (hidle : s.inflight = false) :
    hostWrite s 0x00C 4 v = .next (s.accept v) :=
  hostWrite_poke (reg := .cmd) rfl rfl (by decide) (.inl hidle)

/-- The words of CMD, DIN, KEY, IV, R and P in the map are locked while BUSY = 1 (20_memory R72, R83). -/
theorem windowAt_locked {off : Nat} (h4 : off % 4 = 0)
    (h : off = 0x00C ∨ off = 0x014 ∨ (0x020 ≤ off ∧ off < 0x040) ∨ (0x100 ≤ off ∧ off < 0x300) ∨
      (0x400 ≤ off ∧ off < 0x600 ∧ (off - 0x400) % 0x80 ≤ 0x40)) : (windowAt off).lockedWhileBusy = true := by
  rcases h with rfl | rfl | ⟨hlo, hhi⟩ | ⟨hlo, hhi⟩ | ⟨hlo, hhi, hword⟩
  · rfl
  · rfl
  · simp (disch := omega) only [windowAt, if_neg, if_pos]
    split_ifs <;> rfl
  · simp (disch := omega) only [windowAt, if_neg, if_pos]
    rfl
  · simp (disch := omega) only [windowAt, if_neg, if_pos, pointWordAt]
    split_ifs <;> rfl

/-! ### Completions -/

/-- The code in LASTERR of a command with one check: E_OK, or the code of that check. -/
theorem finish_ite_lastErr (s u : State) (c : Code) (P : Prop) [Decidable P] :
    ∃ t, finish s (if P then .ok u else .error c) = .next t ∧ t.lastErr ∈ [0, c.bits] := by
  by_cases hP : P
  · exact ⟨u.complete .ok, by rw [if_pos hP, finish_ok], by simp [Code.bits]⟩
  · exact ⟨s.complete c, by rw [if_neg hP, finish_error], by simp⟩

theorem hostKept_of_commandWrites {i : Instr} {s u : State} (h : CommandWrites s u i) : HostKept s u := by
  cases i with
  | nop | pchk | zinit =>
    obtain rfl := h
    exact ⟨rfl, rfl, rfl, rfl, rfl, rfl, rfl, rfl, rfl⟩
  | fadd | fsub | fmul | fsqr | finv | padd | pdbl | pmul | pldg =>
    obtain ⟨_, -, rfl⟩ := h
    exact ⟨rfl, rfl, rfl, rfl, rfl, rfl, rfl, rfl, rfl⟩
  | zgen | zxor =>
    obtain ⟨-, rfl⟩ := h
    exact ⟨rfl, rfl, rfl, rfl, rfl, rfl, rfl, rfl, rfl⟩

theorem irq_complete (s : State) (c : Code) : (s.complete c).irq = s.ie := Bool.and_true _

/-- A completion raises IRQ exactly when IE = 1 (60_exceptions R311). -/
theorem irq_of_exec {i : Instr} {s t : State} (h : exec i s = .next t) : t.irq = s.ie := by
  rcases exec_cases h with ⟨c, -, rfl⟩ | ⟨u, hu, rfl⟩
  · exact irq_complete s c
  · exact (irq_complete u .ok).trans (hostKept_of_commandWrites hu).ie

/-! ### LASTERR, BUSY and DONE under the events of a step -/

/-- Every completion leaves a code of this version, 0 to 5, in LASTERR (60_exceptions R302). -/
theorem lastErrDefined_of_completeCommand {s t : State} (h : completeCommand s = .next t) : LastErrDefined t := by
  rcases completeCommand_error_or_writes h with ⟨c, -, rfl⟩ | ⟨-, u, -, -, -, rfl⟩
  · exact code_bits_le c
  · exact code_bits_le .ok

theorem notBusyAndDone_of_idle {s : State} (h : s.inflight = false) : NotBusyAndDone s :=
  fun hboth => Bool.false_ne_true (h.symm.trans hboth.1)

theorem notBusyAndDone_of_not_done {s : State} (h : s.done = false) : NotBusyAndDone s :=
  fun hboth => Bool.false_ne_true (h.symm.trans hboth.2)

theorem notBusyAndDone_writeStatus {s : State} (v : Word) (hs : NotBusyAndDone s) : NotBusyAndDone (s.writeStatus v) :=
  fun hboth => hs ⟨hboth.1, (Bool.and_eq_true_iff.1 hboth.2).1⟩

/-- Of the host's writes, only acceptance sets BUSY, and it clears DONE; none sets DONE (60_exceptions R300). -/
theorem notBusyAndDone_writeWord {s : State} (off : Nat) (v : Word) (hs : NotBusyAndDone s) :
    NotBusyAndDone (writeWord s off v) := by
  rcases writeWord_cases s off v with ⟨-, h⟩ | h | ⟨b, h⟩ | h | ⟨-, -, h⟩ |
    ⟨-, ⟨w, h⟩ | ⟨j, w, h⟩ | ⟨j, w, h⟩ | ⟨i, w, h⟩ | ⟨i, w, h⟩⟩ | h <;> rw [h]
  case inr.inl => exact notBusyAndDone_of_idle rfl
  case inr.inr.inr.inl => exact notBusyAndDone_writeStatus v hs
  case inr.inr.inr.inr.inl => exact notBusyAndDone_of_not_done rfl
  all_goals exact hs

/-! ### What no read answers -/

/-- No word of the window shows KEY, the ZUC state or CMDL (60_exceptions R314, 10_state R45, R50). -/
theorem peek_withSecrets (s : State) (key : Vector Word 4) (zuc : ZucState) (cmdl : Word) (reg : WindowReg) :
    peek { s with key := key, zuc := zuc, cmdl := cmdl } reg = peek s reg := by
  cases reg <;> rfl

theorem readWord_withSecrets_responses (s : State) (key : Vector Word 4) (zuc : ZucState) (cmdl : Word) (off : Nat) :
    (readWord { s with key := key, zuc := zuc, cmdl := cmdl } off).responses = (readWord s off).responses := by
  simp only [readWord, peek_withSecrets]
  split <;> rfl

end Sys2Proof.Machine

namespace Sys2Proof.Proofs

open Sys2Proof.Machine Sys2Proof.Safety

/-- Settles O53: a completion leaves a code's number, a reset 0, and any other step what was there. -/
theorem stepKeepsLastErrDefined : Obligations.StepKeepsLastErrDefined := by
  intro s t hs hstep
  rcases step_completes_resets_or_keeps hstep with ⟨-, hcomplete⟩ | ⟨_, rfl⟩ | hkept
  · exact lastErrDefined_of_completeCommand hcomplete
  · exact Nat.zero_le 5
  · rw [LastErrDefined, hkept.lastErr]
    exact hs

/-- Settles O54: a completion and a reset leave BUSY = 0, a read leaves both bits, and a write is
`notBusyAndDone_writeWord`'s. -/
theorem stepKeepsNotBusyAndDone : Obligations.StepKeepsNotBusyAndDone := by
  intro s t hs hstep
  rcases step_cases hstep with ⟨-, rfl⟩ | ⟨-, hcomplete⟩ | ⟨off, rfl⟩ | ⟨off, v, rfl⟩ | rfl
  · exact hs
  · exact notBusyAndDone_of_idle (completeCommand_idle_done hcomplete).1
  · obtain ⟨v, n, hread⟩ := readWord_eq s.dropInput off
    rw [hread]
    exact hs
  · exact notBusyAndDone_writeWord off v hs
  · exact notBusyAndDone_of_idle rfl

/-- Settles O6: either way the engine's turn comes, its word decodes. -/
theorem stepRunsDecodedCommand : Obligations.StepRunsDecodedCommand := by
  refine fun s i hbusy hdec => ⟨fun hnil => ?_, fun rest hcons => ?_⟩
  · rw [step_of_inputs_nil hnil, engineTurn_of_decoded hbusy hdec]
  · rw [step_of_inputs_cons hcons]
    exact engineTurn_of_decoded hbusy hdec

/-- Settles O7: CMD is a locked word while busy, and acceptance is its write while idle. -/
theorem cmdWriteAccepts : Obligations.CmdWriteAccepts := by
  intro s v
  by_cases hbusy : s.inflight = true
  · rw [if_pos hbusy]
    exact hostWrite_locked rfl (by decide) hbusy rfl
  · rw [if_neg hbusy]
    exact hostWrite_cmd_idle v (Bool.eq_false_iff.2 hbusy)

/-- Settles O8: the first step accepts the word, which decodes back to the command for the second (O1, O6). -/
theorem writtenCommandRuns : Obligations.WrittenCommandRuns := by
  intro s i rest hidle hwf hinputs
  have haccept : step s = .next (State.accept { s with inputs := .engineTurn :: rest } (encode i)) := by
    rw [step_of_inputs_cons hinputs]
    exact hostWrite_cmd_idle (encode i) hidle
  refine ⟨_, haccept, ?_⟩
  have hdec : decode (encode i) = .ok i := decodeInvertsEncode i hwf
  exact (stepRunsDecodedCommand _ i (State.accept_inflight _ _) hdec).2 rest rfl

/-- Settles O11: command by command, its checks in R304's order. -/
theorem completionCodesByCommand : Obligations.CompletionCodesByCommand := by
  intro i s hwf
  cases i with
  | nop | pchk | pldg | zinit => exact ⟨_, rfl, List.mem_singleton_self _⟩
  | fadd | fsub | fmul | fsqr => exact finish_ite_lastErr s _ .range _
  | padd | pdbl | pmul => exact finish_ite_lastErr s _ .invPoint _
  | zgen => exact finish_ite_lastErr s _ .notInit _
  | finv rd rs =>
    by_cases hrange : readScalar s rs < fieldPrime
    · by_cases hzero : readScalar s rs = 0
      · exact ⟨_, execFinv_zero rd hrange hzero, by simp [Code.bits]⟩
      · exact ⟨_, execFinv_nonzero rd hrange hzero, by simp [Code.bits]⟩
    · exact ⟨_, execFinv_outOfRange rd hrange, by simp [Code.bits]⟩
  | zxor n =>
    have hn := (byteCountLegal_iff n).1 hwf
    by_cases hready : s.zrdy = true
    · exact ⟨_, exec_zxor_of_ready hn hready, by simp [Code.bits]⟩
    · exact ⟨_, exec_zxor_of_not_ready hn hready, by simp [Code.bits]⟩

/-- Settles O12: of the two ends of a command, one with E_OK leaves 0 in LASTERR, and the other makes no write. -/
theorem errorsMakeNoPartialResult : Obligations.ErrorsMakeNoPartialResult := by
  intro i s t hexec herr
  rcases exec_cases hexec with ⟨c, hc, rfl⟩ | ⟨u, -, rfl⟩
  · exact ⟨completed_complete s c, by simp [hc], writesNothing_complete s c⟩
  · exact absurd rfl herr

/-- Settles O36: the map has a locked word at each of these offsets. -/
theorem busyWritesOnlySetWerr : Obligations.BusyWritesOnlySetWerr := by
  intro s off v hbusy h4 hoff
  exact hostWrite_locked h4 (by omega) hbusy (windowAt_locked h4 hoff)

/-- Settles O49: each clause by the event's own effect on IE and DONE. -/
theorem irqFollowsEnableAndDone : Obligations.IrqFollowsEnableAndDone := by
  refine fun s t v => ⟨rfl, fun hbit hwrite => ?_, fun hbit hwrite => ?_, rfl, fun hidle hwrite => ?_,
    fun i hexec => irq_of_exec hexec⟩
  · rw [hostWrite_ctrl, State.writeCtrl, if_neg (Bool.eq_false_iff.1 hbit)] at hwrite
    cases hwrite
    exact ⟨rfl, rfl⟩
  · rcases hwrite with hwrite | hwrite
    · rw [hostWrite_ctrl, State.writeCtrl, if_pos hbit] at hwrite
      cases hwrite
      rfl
    · rw [hostWrite_status] at hwrite
      cases hwrite
      simp [State.irq, hbit]
  · rw [hostWrite_cmd_idle v hidle] at hwrite
    cases hwrite
    exact Bool.and_false _

/-- Settles O60: admission looks at the offset and the size alone, and no word of the window shows a secret. -/
theorem secretsCannotBeReadBack : Obligations.SecretsCannotBeReadBack := by
  intro s key zuc cmdl off size
  by_cases hadmit : size = 4 ∧ off % 4 = 0 ∧ off ≤ 0xFFC
  · obtain ⟨rfl, h4, hl⟩ := hadmit
    simp only [hostRead_word h4 hl]
    refine ⟨fun t ht => ?_, fun r hr => nomatch hr⟩
    cases ht
    exact ⟨_, rfl, readWord_withSecrets_responses s key zuc cmdl off⟩
  · obtain ⟨r, hr⟩ := admitAccess_refused hadmit
    refine ⟨fun t ht => ?_, fun r' hr' => ?_⟩
    · rw [hostRead, hr] at ht
      cases ht
    · rw [hostRead, hr] at hr' ⊢
      exact hr'

end Sys2Proof.Proofs

/-! The family of 70_reset_and_hazards: completion within one step of the engine, and resets. -/

namespace Sys2Proof.Machine

/-! ### The completion of any word in flight (70_reset R364) -/

/-- The completion of a word neither faults nor refuses, whether the word decodes or not. -/
theorem completeCommand_next (s : State) : ∃ t, completeCommand s = .next t := by
  rw [completeCommand]
  cases decode s.cmdl with
  | ok i => exact exec_next i s
  | error e => exact finish_next s (.error .illegal)

/-- A completion raises IRQ exactly when IE = 1, that of an illegal word too (60_exceptions R311). -/
theorem irq_of_completeCommand {s t : State} (h : completeCommand s = .next t) : t.irq = s.ie := by
  rcases completeCommand_cases h with ⟨i, -, hexec⟩ | ⟨-, rfl⟩
  · exact irq_of_exec hexec
  · exact irq_complete s .illegal

/-! ### Resets (70_reset R351, R352) -/

theorem step_of_hardReset {s : State} {rest : List Input} (h : s.inputs = .hardReset :: rest) :
    step s = .next (State.blockReset { s with inputs := rest }) :=
  step_of_inputs_cons h

/-- CTRL is not locked: its write with SRST = 1 resets the block with a command in flight too. -/
theorem step_of_softReset {s : State} {v : Word} {rest : List Input} (hbit : v.getLsbD 1 = true)
    (h : s.inputs = .memWrite 0x004 4 v :: rest) : step s = .next (State.blockReset { s with inputs := rest }) := by
  rw [step_of_inputs_cons h, runInput, hostWrite_ctrl, State.writeCtrl, if_pos hbit]

/-- An idle block with no input left holds its state (60_exceptions R319, 70_reset R353). -/
theorem step_of_idle {s : State} (hidle : s.inflight = false) (h : s.inputs = []) : step s = .next s := by
  rw [step_of_inputs_nil h, engineTurn, if_neg (Bool.eq_false_iff.1 hidle)]

end Sys2Proof.Machine

namespace Sys2Proof.Proofs

open Sys2Proof.Machine

/-- Settles O10: with no input left the step is the engine's turn, and that is the completion of the word in flight. -/
theorem busyEndsInOneStep : Obligations.BusyEndsInOneStep := by
  intro s hbusy hnil
  obtain ⟨t, hcomplete⟩ := completeCommand_next s
  have hturn : engineTurn s = .next t := by rw [engineTurn, if_pos hbusy, hcomplete]
  obtain ⟨hidle, hdone⟩ := completeCommand_idle_done hcomplete
  exact ⟨t, hturn, (step_of_inputs_nil hnil).trans hturn, hidle, hdone, irq_of_completeCommand hcomplete⟩

/-- Settles O50: both sources act by `State.blockReset`, which leaves CMDL at 0 and nothing in flight. -/
theorem resetFromEitherSource : Obligations.ResetFromEitherSource := by
  intro s rest hsource
  have hstep : step s = .next (State.blockReset { s with inputs := rest }) := by
    rcases hsource with hhard | ⟨v, hbit, hsoft⟩
    · exact step_of_hardReset hhard
    · exact step_of_softReset hbit hsoft
  exact ⟨_, State.reset.cmdl, hstep, rfl, rfl, step_of_idle rfl rfl⟩

end Sys2Proof.Proofs
